-- ==== Sys2Proof/Word.lean ====
section
/-! DEFINITION. The two word types of CORE (spec/00_scope.md R5, R7). -/

namespace Sys2Proof

/-- A field element, an index or a degree: 8 bits, unsigned (00_scope.md R7, 40_field_arith.md R110). -/
abbrev Byte := BitVec 8

/-- A command word or the value of a register of the window: 32 bits (30_encoding.md R80, 10_state.md R23). -/
abbrev Word := BitVec 32

end Sys2Proof
end

