-- ==== Sys2Proof/Config.lean ====
section
/-! DEFINITION. The implementation parameters of spec/00_scope.md R6: the fixed ones with their values, and the
OPEN one that a rule depends on (CORE_BASE) as a constant with no body. LAT and INIT_LAT are OPEN too, but the model
takes no time (70_reset_and_hazards.md R252), so no definition reads them: notes/assumptions/2.md and 3.md. -/

namespace Sys2Proof.Config

/-- MODULUS, x^8+x^4+x^3+x+1, as a bitmask (R6). -/
def modulus : Nat := 0x11b

/-- REDUCE_BYTE: MODULUS with bit 8 removed (R6). -/
def reduceByte : Byte := 0x1b

/-- ID_VALUE (R6, 10_state.md R29). -/
def idValue : Word := 0x47460100

/-- WINDOW_BYTES (R6). -/
def windowBytes : Nat := 16

/-- COEF_DEPTH and POINT_DEPTH (R6). -/
def memoryDepth : Nat := 256

/-- OPEN (R6, 20_memory.md R55): which 16-byte block of the host's address map is the window. No value can be proved
of it (notes/assumptions/5.md). -/
opaque windowBlock : Nat

/-- CORE_BASE, a multiple of 16 by construction (R6, 20_memory.md R55). -/
def coreBase : Nat := 16 * windowBlock

end Sys2Proof.Config
end

