-- ==== Sys2Proof/Syntax.lean ====
section
/-! DEFINITION. The commands of CORE as data (spec/30_encoding.md): the fields of a command word, the opcode map's
names, the instruction type with one constructor per row of spec/opcode_table.json, and lines of assembler syntax. -/

namespace Sys2Proof

/-- The fields of the one command format CW (30_encoding.md R80), raw: any word has them, legal or not. -/
structure CW where
  op : BitVec 6
  sa : Bool
  sb : Bool
  f2 : Byte
  f1 : Byte
  f0 : Byte
deriving DecidableEq, Repr

/-- The mnemonics of the opcode map (30_encoding.md R82). -/
inductive Opcode where
  | nop | add | sub | mul | div | inv | eval | interp | ldc | ldp | rdc | rdpx | rdpy | clrerr
deriving DecidableEq, Repr

/-- Where a value operand comes from (30_encoding.md R84, R86): the literal in its field, or the result register. -/
inductive Src where
  | lit (v : Byte)
  | r
deriving DecidableEq, Repr

/-- The commands, one constructor per row of the opcode map (30_encoding.md R82), operands in the order of the syntax
of R89. The operands are 8-bit by their types, so every term is a command some word encodes. -/
inductive Instr where
  | nop
  | add (a b : Src)
  | sub (a b : Src)
  | mul (a b : Src)
  | div (a b : Src)
  | inv (a : Src)
  | eval (d : Byte) (x : Src)
  | interp (n : Src)
  | ldc (i : Byte) (v : Src)
  | ldp (i : Byte) (x y : Src)
  | rdc (i : Byte)
  | rdpx (i : Byte)
  | rdpy (i : Byte)
  | clrerr
deriving DecidableEq, Repr

/-- The row of the opcode map an instruction belongs to. -/
def Instr.opcode : Instr → Opcode
  | .nop => .nop
  | .add _ _ => .add
  | .sub _ _ => .sub
  | .mul _ _ => .mul
  | .div _ _ => .div
  | .inv _ => .inv
  | .eval _ _ => .eval
  | .interp _ => .interp
  | .ldc _ _ => .ldc
  | .ldp _ _ _ => .ldp
  | .rdc _ => .rdc
  | .rdpx _ => .rdpx
  | .rdpy _ => .rdpy
  | .clrerr => .clrerr

/-- Why a word is illegal: the clauses of legal(w) in 30_encoding.md R85, in its order. All of them raise the one
error IllegalCommand (60_exceptions.md R201); the names are the model's (notes/assumptions/18.md). -/
inductive IllegalReason where
  /-- op > 0x0D -/
  | reservedOpcode
  /-- F2 is not used by the opcode and is not 0 -/
  | unusedF2
  /-- F1 is not used by the opcode and is not 0 -/
  | unusedF1
  /-- F0 is not used by the opcode and is not 0 -/
  | unusedF0
  /-- SA is set and the opcode does not use it -/
  | unusedSA
  /-- SA is set and F1 is not 0 -/
  | f1UnderSA
  /-- SB is set and the opcode does not use it -/
  | unusedSB
  /-- SB is set and F0 is not 0 -/
  | f0UnderSB
  /-- not four byte lanes: no whole 32-bit word (30_encoding.md R81) -/
  | notOneWord
deriving DecidableEq, Repr

/-- A mnemonic of the assembler: a command's own, or a pseudo-instruction (30_encoding.md R89, R91). -/
inductive AsmOp where
  | core (o : Opcode)
  | mov | clrr | neg | sqr | ldcr
deriving DecidableEq, Repr

/-- An operand as written in a line: an integer literal of any size, or the letter r (30_encoding.md R88). -/
inductive AsmOperand where
  | lit (v : Nat)
  | r
deriving DecidableEq, Repr

/-- One line of assembler syntax, its comment removed (30_encoding.md R88). -/
structure AsmLine where
  op : AsmOp
  operands : List AsmOperand
deriving DecidableEq, Repr

/-- Why the assembler rejects a line (30_encoding.md R88, R89). -/
inductive AsmError where
  /-- the line names no mnemonic of R89 or R91 -/
  | unknownMnemonic
  /-- an operand is neither a literal nor r -/
  | badOperand
  /-- the number of operands is not the mnemonic's -/
  | wrongOperandCount
  /-- r where a literal must stand -/
  | registerNotAllowed
  /-- a literal above 255 -/
  | literalTooLarge
deriving DecidableEq, Repr

end Sys2Proof
end

