-- ==== Sys2Proof/WellFormed.lean ====
section
/-! DEFINITION. What makes a term of the syntax well formed. An Instr's operands are 8-bit by their types, so every
Instr is well formed and no check on it is needed. A line of assembler syntax is not: an assembler must reject "a
literal above 255, r in an index or degree position, and a wrong operand count" (spec/30_encoding.md R89). Those three
checks stand here. (The legality of a raw command word, R85, stands in Decode.lean.) -/

namespace Sys2Proof

/-- What may stand at an operand position: a value (a literal or r), or a literal only (R88; MOV: R91). -/
inductive OperandKind where
  | value
  | literal
deriving DecidableEq, Repr

/-- The operand positions of a mnemonic, in the order of the syntax (R89, R91). -/
def AsmOp.shape : AsmOp → List OperandKind
  | .core .nop | .core .clrerr | .clrr => []
  | .core .add | .core .sub | .core .mul | .core .div => [.value, .value]
  | .core .inv | .core .interp | .neg | .sqr => [.value]
  | .core .eval | .core .ldc => [.literal, .value]
  | .core .ldp => [.literal, .value, .value]
  | .core .rdc | .core .rdpx | .core .rdpy | .mov | .ldcr => [.literal]

/-- The check of one operand at one position: none where it may stand there. -/
def OperandKind.check : OperandKind → AsmOperand → Option AsmError
  | .value, .r => none
  | .literal, .r => some .registerNotAllowed
  | _, .lit v => if v ≤ 255 then none else some .literalTooLarge

/-- The check of all operands against the positions, the first failure first. -/
def checkOperands : List OperandKind → List AsmOperand → Option AsmError
  | [], [] => none
  | k :: ks, o :: os =>
    match k.check o with
    | some e => some e
    | none => checkOperands ks os
  | _, _ => some .wrongOperandCount

/-- The first thing wrong with a line, none where it is well formed. -/
def AsmLine.check (l : AsmLine) : Option AsmError := checkOperands l.op.shape l.operands

/-- A line some word encodes. -/
def AsmLine.wf (l : AsmLine) : Bool := l.check.isNone

end Sys2Proof
end

