-- ==== Sys2Proof/Decode.lean ====
section
/-! DEFINITION. From words to commands and back (spec/30_encoding.md): the fields of a word (R80), the opcode map and
the "uses" column (R82), legality (R85), decoding (R86), the match and mask table (R83), the encoder (R89), and the
byte lanes of a 32-bit transfer (20_memory.md R57). Decoding is total on all 2^32 words. -/

namespace Sys2Proof

/-- The fields of a word (R80). -/
def CW.ofWord (w : Word) : CW :=
  { op := w.extractLsb' 26 6
    sa := w.getLsbD 25
    sb := w.getLsbD 24
    f2 := w.extractLsb' 16 8
    f1 := w.extractLsb' 8 8
    f0 := w.extractLsb' 0 8 }

/-- The word with given fields, by the formula of R80:
w = (OP << 26) | (SA << 25) | (SB << 24) | (F2 << 16) | (F1 << 8) | F0. -/
def CW.toWord (c : CW) : Word :=
  (c.op.zeroExtend 32 <<< 26) ||| ((BitVec.ofBool c.sa).zeroExtend 32 <<< 25)
    ||| ((BitVec.ofBool c.sb).zeroExtend 32 <<< 24) ||| (c.f2.zeroExtend 32 <<< 16)
    ||| (c.f1.zeroExtend 32 <<< 8) ||| c.f0.zeroExtend 32

/-- The OP column of the opcode map (R82). -/
def Opcode.code : Opcode → BitVec 6
  | .nop => 0x00
  | .add => 0x01
  | .sub => 0x02
  | .mul => 0x03
  | .div => 0x04
  | .inv => 0x05
  | .eval => 0x06
  | .interp => 0x07
  | .ldc => 0x08
  | .ldp => 0x09
  | .rdc => 0x0A
  | .rdpx => 0x0B
  | .rdpy => 0x0C
  | .clrerr => 0x0D

/-- The command an opcode field selects; none for the reserved opcodes 0x0E to 0x3F (R82, R87). -/
def opcodeOf (op : BitVec 6) : Option Opcode :=
  match op.toNat with
  | 0x00 => some .nop
  | 0x01 => some .add
  | 0x02 => some .sub
  | 0x03 => some .mul
  | 0x04 => some .div
  | 0x05 => some .inv
  | 0x06 => some .eval
  | 0x07 => some .interp
  | 0x08 => some .ldc
  | 0x09 => some .ldp
  | 0x0A => some .rdc
  | 0x0B => some .rdpx
  | 0x0C => some .rdpy
  | 0x0D => some .clrerr
  | _ => none

/-- An entry of the "uses" column of R82: the fields and bits a command reads. -/
structure Uses where
  f2 : Bool
  f1 : Bool
  f0 : Bool
  sa : Bool
  sb : Bool
deriving DecidableEq, Repr

/-- The "uses" column of R82. -/
def Opcode.uses : Opcode → Uses
  | .nop | .clrerr => ⟨false, false, false, false, false⟩
  | .add | .sub | .mul | .div => ⟨false, true, true, true, true⟩
  | .inv | .interp => ⟨false, true, false, true, false⟩
  | .eval => ⟨true, true, false, true, false⟩
  | .ldc => ⟨true, false, true, false, true⟩
  | .ldp => ⟨true, true, true, true, true⟩
  | .rdc | .rdpx | .rdpy => ⟨true, false, false, false, false⟩

/-- The clauses of legal(w) after the opcode's (R85), in its order: none where all hold. -/
def CW.violation (u : Uses) (c : CW) : Option IllegalReason :=
  if !u.f2 && c.f2 != 0 then some .unusedF2
  else if !u.f1 && c.f1 != 0 then some .unusedF1
  else if !u.f0 && c.f0 != 0 then some .unusedF0
  else if c.sa && !u.sa then some .unusedSA
  else if c.sa && c.f1 != 0 then some .f1UnderSA
  else if c.sb && !u.sb then some .unusedSB
  else if c.sb && c.f0 != 0 then some .f0UnderSB
  else none

/-- The source of the F1 operand, opA (R84). -/
def CW.srcA (c : CW) : Src := if c.sa then .r else .lit c.f1

/-- The source of the F0 operand, opB (R84). -/
def CW.srcB (c : CW) : Src := if c.sb then .r else .lit c.f0

/-- The command with opcode o and the operands of the fields (R82, R86). -/
def Opcode.build (o : Opcode) (c : CW) : Instr :=
  match o with
  | .nop => .nop
  | .add => .add c.srcA c.srcB
  | .sub => .sub c.srcA c.srcB
  | .mul => .mul c.srcA c.srcB
  | .div => .div c.srcA c.srcB
  | .inv => .inv c.srcA
  | .eval => .eval c.f2 c.srcA
  | .interp => .interp c.srcA
  | .ldc => .ldc c.f2 c.srcB
  | .ldp => .ldp c.f2 c.srcA c.srcB
  | .rdc => .rdc c.f2
  | .rdpx => .rdpx c.f2
  | .rdpy => .rdpy c.f2
  | .clrerr => .clrerr

/-- Decoding of raw fields: the command, or the first clause of R85 that fails. -/
def CW.decode (c : CW) : Except IllegalReason Instr :=
  match opcodeOf c.op with
  | none => .error .reservedOpcode
  | some o =>
    match c.violation o.uses with
    | some e => .error e
    | none => .ok (o.build c)

/-- Decoding of a word (R86), total on all words: a legal command, or illegal by a named clause of R85. -/
def decode (w : Word) : Except IllegalReason Instr := (CW.ofWord w).decode

/-- legal(w) of R85. -/
def legal (w : Word) : Bool := (decode w).isOk

/-- A row of the match and mask table (R83). -/
structure TableRow where
  opcode : Opcode
  pattern : Word
  mask : Word
deriving DecidableEq, Repr

/-- The match and mask table (R83), in its order. -/
def opcodeTable : List TableRow :=
  [ ⟨.nop,    0x00000000, 0xFFFFFFFF⟩,
    ⟨.add,    0x04000000, 0xFCFF0000⟩,
    ⟨.sub,    0x08000000, 0xFCFF0000⟩,
    ⟨.mul,    0x0C000000, 0xFCFF0000⟩,
    ⟨.div,    0x10000000, 0xFCFF0000⟩,
    ⟨.inv,    0x14000000, 0xFDFF00FF⟩,
    ⟨.eval,   0x18000000, 0xFD0000FF⟩ ] ++
  [ ⟨.interp, 0x1C000000, 0xFDFF00FF⟩,
    ⟨.ldc,    0x20000000, 0xFE00FF00⟩,
    ⟨.ldp,    0x24000000, 0xFC000000⟩,
    ⟨.rdc,    0x28000000, 0xFF00FFFF⟩,
    ⟨.rdpx,   0x2C000000, 0xFF00FFFF⟩,
    ⟨.rdpy,   0x30000000, 0xFF00FFFF⟩,
    ⟨.clrerr, 0x34000000, 0xFFFFFFFF⟩ ]

/-- A word selects the row: (w and mask) = match (R83). -/
def TableRow.selects (row : TableRow) (w : Word) : Bool := (w &&& row.mask) == row.pattern

/-- The operand-select constraint of R85: F1 = 0 under SA, and F0 = 0 under SB. -/
def operandSelectOk (w : Word) : Bool :=
  (!(w.getLsbD 25) || w.extractLsb' 8 8 == 0) && (!(w.getLsbD 24) || w.extractLsb' 0 8 == 0)

/-- The select bit of an operand: 1 for r (R89). -/
def Src.selectBit : Src → Bool
  | .lit _ => false
  | .r => true

/-- L(v) of R89, the field of an operand: its literal, and 0 for r. -/
def Src.field : Src → Byte
  | .lit v => v
  | .r => 0

/-- The fields of a command's word (R89). -/
def Instr.fields : Instr → CW
  | .nop => ⟨0x00, false, false, 0, 0, 0⟩
  | .add a b => ⟨0x01, a.selectBit, b.selectBit, 0, a.field, b.field⟩
  | .sub a b => ⟨0x02, a.selectBit, b.selectBit, 0, a.field, b.field⟩
  | .mul a b => ⟨0x03, a.selectBit, b.selectBit, 0, a.field, b.field⟩
  | .div a b => ⟨0x04, a.selectBit, b.selectBit, 0, a.field, b.field⟩
  | .inv a => ⟨0x05, a.selectBit, false, 0, a.field, 0⟩
  | .eval d x => ⟨0x06, x.selectBit, false, d, x.field, 0⟩
  | .interp n => ⟨0x07, n.selectBit, false, 0, n.field, 0⟩
  | .ldc i v => ⟨0x08, false, v.selectBit, i, 0, v.field⟩
  | .ldp i x y => ⟨0x09, x.selectBit, y.selectBit, i, x.field, y.field⟩
  | .rdc i => ⟨0x0A, false, false, i, 0, 0⟩
  | .rdpx i => ⟨0x0B, false, false, i, 0, 0⟩
  | .rdpy i => ⟨0x0C, false, false, i, 0, 0⟩
  | .clrerr => ⟨0x0D, false, false, 0, 0, 0⟩

/-- The encoder: the one word of a command (R89). -/
def encode (i : Instr) : Word := i.fields.toWord

/-- Byte lane k of a 32-bit transfer carries bits 8k+7 to 8k (20_memory.md R57). -/
def lane (k : Nat) (w : Word) : Byte := w.extractLsb' (8 * k) 8

/-- The four lanes of a word, lane 0 (the lowest bus address) first (20_memory.md R57). -/
def lanesOf (w : Word) : List Byte := [lane 0 w, lane 1 w, lane 2 w, lane 3 w]

/-- The word carried by four lanes (20_memory.md R57). -/
def wordOfLanes (b0 b1 b2 b3 : Byte) : Word := b3 ++ b2 ++ b1 ++ b0

/-- Decoding of bytes in lane order: total on any bytes. A command is delivered whole, by one 32-bit transfer
(30_encoding.md R81), so any number of bytes but four is rejected by name. -/
def decodeLanes : List Byte → Except IllegalReason Instr
  | [b0, b1, b2, b3] => decode (wordOfLanes b0 b1 b2 b3)
  | _ => .error .notOneWord

/-- The word whose bits, numbered as spec/opcode_table.json numbers them, are w; the bits from nbits up are 0. -/
def tableWord (nbits w : Nat) : Word := BitVec.ofNat 32 (w % 2 ^ nbits)

/-- What the decoder reads from an instruction of nbits bits, w: the word's lanes given to the decoder, none where it
refuses. Every command has exactly 32 bits (30_encoding.md R81), so more bits than that are refused
(notes/assumptions/20.md). -/
def decodeTableWord (nbits w : Nat) : Option Instr :=
  if nbits ≤ 32 then
    match decodeLanes (lanesOf (tableWord nbits w)) with
    | .ok i => some i
    | .error _ => none
  else none

end Sys2Proof
end

