-- ==== Sys2Proof/Machine/State.lean ====
section
/-! DEFINITION. The state of CORE (spec/10_state.md R20), the host's inputs as plain data, the error kinds
(spec/60_exceptions.md R200), the reasons a step can stop, and the state right after reset (70_reset_and_hazards.md
R240, R241). -/

namespace Sys2Proof.Machine

/-- One of CORE's memories (COEF, PX or PY) as a list of cells (index, byte) in one canonical form: indices below 256
strictly rising, and no cell equal to what an unlisted index reads as, 0x00 (70_reset_and_hazards.md R242). The form is
Memory.wf of Machine/Ops.lean. -/
abbrev Memory := List Host.Cell

/-- A host bus access: a byte address, a width in bytes, and for a write the 32 bits of data (20_memory.md R56, R58).
Any width and any address can be written down; which of them the window accepts is R58. -/
inductive Access where
  | read (addr width : Nat)
  | write (addr width : Nat) (data : Word)
deriving DecidableEq, Repr

/-- What the host does next (60_exceptions.md R230): a bus access, nothing while CORE moves, or a change of the reset
input. -/
inductive HostEvent where
  | access (a : Access)
  | wait
  | assertReset
  | releaseReset
deriving DecidableEq, Repr

/-- What the bus answers the host (20_memory.md R56, R58): the value of a read, the completion of a write, or a bus
error response, which is no value. -/
inductive BusResponse where
  | data (v : Word)
  | writeDone
  | busError
deriving DecidableEq, Repr

/-- The error kinds a command can raise, with their information (60_exceptions.md R200, 00_scope.md R8 "raise E(info)"). -/
inductive ErrKind where
  | zeroHasNoInverse
  | divisionByZero
  | polynomialNotInvertible
  | duplicateXCoordinate (x i j : Byte)
  | emptyPointSet
  | illegalCommand
deriving DecidableEq, Repr

/-- The state of the machine. The first eleven fields are the complete state of CORE (10_state.md R20); the last three
are the model's own plain-data record of the outside: the level of the reset input, what the host does next, and what
the bus has answered it (notes/assumptions/1.md, 4.md, 9.md). -/
structure State where
  /-- R, the result register (10_state.md R22) -/
  r : Byte
  /-- ERR, the code of the last completed command (10_state.md R27) -/
  err : BitVec 4
  /-- ERRSEEN, sticky (10_state.md R28) -/
  errSeen : Bool
  /-- ERRX (10_state.md R30) -/
  errX : Byte
  /-- ERRI (10_state.md R30) -/
  errI : Byte
  /-- ERRJ (10_state.md R30) -/
  errJ : Byte
  /-- COEF[0..255] (10_state.md R33) -/
  coef : Memory
  /-- PX[0..255] (10_state.md R34) -/
  px : Memory
  /-- PY[0..255] (10_state.md R34) -/
  py : Memory
  /-- pending, the accepted command word not yet completed (10_state.md R35) -/
  pending : Option Word
  /-- BUSY (10_state.md R26) -/
  busy : Bool
  /-- the level of the reset input (70_reset_and_hazards.md R240) -/
  resetAsserted : Bool
  /-- what the host does next, in program order (20_memory.md R64) -/
  agenda : List HostEvent
  /-- what the bus has answered the host, newest first -/
  responses : List BusResponse
deriving DecidableEq, Repr

/-- The reasons the machine stops with a fault. -/
inductive Fault where
  /-- raised by Machine/Ops.lean's raise when gf_inv reaches the branch of 40_field_arith.md R116 that no input reaches:
  93_implementation_defined.md I3 makes reaching it a fault of the model. Safe. -/
  | polynomialNotInvertible
  /-- raised by busAccess of Machine/Run.lean for a host access while reset is asserted: 93_implementation_defined.md
  I12 gives it no step. Safe. -/
  | accessDuringReset
deriving DecidableEq, Repr

/-- The reasons the model gives no meaning. -/
inductive Refusal where
  /-- raised by Machine/Dispatch.lean for an instruction without a meaning; no arm raises it. Safe. -/
  | notModelled (mnemonic : String)
  /-- raised by busAccess of Machine/Run.lean for a bus address outside the 16-byte window: it is the platform's and does
  not reach CORE (20_memory.md R51). Safe. -/
  | outsideWindow
deriving DecidableEq, Repr

/-- The state right after reset is released, with no host access made yet (70_reset_and_hazards.md R240 and R241):
every register and memory entry 0, nothing pending, BUSY = 1 until initialisation ends. -/
def State.reset : State :=
  { r := 0x00
    err := 0x0
    errSeen := false
    errX := 0x00
    errI := 0x00
    errJ := 0x00
    coef := []
    px := []
    py := []
    pending := none
    busy := true
    resetAsserted := false
    agenda := []
    responses := [] }

end Sys2Proof.Machine
end

