-- ==== Sys2Proof/Machine/Field.lean ====
section
/-! DEFINITION. The field functions of spec/40_field_arith.md section 1 (R110 to R118), the Horner evaluation of
spec/41_polynomial.md R140 over a coefficient function, and the duplicate check and the Lagrange value of
spec/42_interpolation.md R150 over point functions. -/

namespace Sys2Proof.Machine

/-- gf_add (R110). -/
def gfAdd (a b : Byte) : Byte := a ^^^ b

/-- gf_sub (R110). -/
def gfSub (a b : Byte) : Byte := a ^^^ b

/-- The doubling step of R111: shift left in 8 bits, then XOR with 0x1b when the high bit was set before the shift. -/
def gfDouble (a : Byte) : Byte :=
  if a.getLsbD 7 then (a <<< 1) ^^^ Config.reduceByte else a <<< 1

/-- The loop of gf_mul (R111), at most the given number of iterations. -/
def gfMulLoop : Nat → Byte → Byte → Byte → Byte
  | 0, _, _, p => p
  | n + 1, a, b, p =>
    if b = 0 then p
    else gfMulLoop n (gfDouble a) (b >>> 1) (if b.getLsbD 0 then p ^^^ a else p)

/-- gf_mul (R111): at most 8 iterations, since b loses one bit per iteration. -/
def gfMul (a b : Byte) : Byte := gfMulLoop 8 a b 0

/-- degree of a GF(2)-polynomial bitmask: the index of its highest set bit, or -1 for zero (R113). -/
def degree (p : Nat) : Int := if p = 0 then -1 else p.log2

/-- poly_mul (R114): the xor of a << k over all k with b[k] = 1. -/
def polyMul (a b : Nat) : Nat :=
  (List.range (b.log2 + 1)).foldl (fun acc k => if b.testBit k then acc ^^^ (a <<< k) else acc) 0

/-- The loop of poly_divmod (R115), at most the given number of iterations; it returns (q, remainder). -/
def polyDivmodLoop : Nat → Nat → Nat → Nat → Nat × Nat
  | 0, a, _, q => (q, a)
  | n + 1, a, b, q =>
    if a ≠ 0 ∧ degree b ≤ degree a then
      polyDivmodLoop n (a ^^^ (b <<< (a.log2 - b.log2))) b (q ||| (1 <<< (a.log2 - b.log2)))
    else (q, a)

/-- poly_divmod (R115), for b ≠ 0. The degree of a falls in each iteration, so degree(a) + 1 iterations suffice. -/
def polyDivmod (a b : Nat) : Nat × Nat := polyDivmodLoop (a.log2 + 1) a b 0

/-- The loop of gf_inv (R116) on (r0, r1) and (t0, t1), at most the given number of iterations; it returns (r0, t0). -/
def gfInvLoop : Nat → Nat → Nat → Nat → Nat → Nat × Nat
  | 0, r0, _, t0, _ => (r0, t0)
  | n + 1, r0, r1, t0, t1 =>
    if r1 = 0 then (r0, t0)
    else
      let qr := polyDivmod r0 r1
      gfInvLoop n r1 qr.2 t1 (t0 ^^^ polyMul qr.1 t1)

/-- gf_inv (R116). The loop runs at most 8 times, since the degree of r1 starts at 7 or less and falls each time. -/
def gfInv (a : Byte) : Except ErrKind Byte :=
  if a = 0 then .error .zeroHasNoInverse
  else
    let rt := gfInvLoop 8 Config.modulus a.toNat 0 1
    if degree rt.1 > 0 then .error .polynomialNotInvertible
    else .ok (BitVec.ofNat 8 rt.2)

/-- gf_div (R118): the test on b comes first. -/
def gfDiv (a b : Byte) : Except ErrKind Byte :=
  if b = 0 then .error .divisionByZero
  else if a = 0 then .ok 0
  else
    match gfInv b with
    | .ok v => .ok (gfMul a v)
    | .error e => .error e

/-- The fold of R140 from coefficient k down to 0: acc <- gf_add(gf_mul(acc, x), COEF[k]). -/
def hornerLoop (coef : Nat → Byte) (x : Byte) : Nat → Byte → Byte
  | 0, acc => gfAdd (gfMul acc x) (coef 0)
  | k + 1, acc => hornerLoop coef x k (gfAdd (gfMul acc x) (coef (k + 1)))

/-- The value of EVAL (R140) for the coefficients 0 to d at x. -/
def evalPoly (coef : Nat → Byte) (d : Nat) (x : Byte) : Byte :=
  if x = 0 then coef 0 else hornerLoop coef x d 0

/-- The inner loop of the duplicate check (R150, R153): the first j of the list with j ≠ i and PX[i] = PX[j]. -/
def findPartner (px : Nat → Byte) (i : Nat) : List Nat → Option Nat
  | [] => none
  | j :: js => if j ≠ i ∧ gfSub (px i) (px j) = 0 then some j else findPartner px i js

/-- The outer loop of the duplicate check (R150, R153): the first pair, i-major; js are the indices 0 to n-1. -/
def findDuplicateIn (px : Nat → Byte) (js : List Nat) : List Nat → Option (Nat × Nat)
  | [] => none
  | i :: is =>
    match findPartner px i js with
    | some j => some (i, j)
    | none => findDuplicateIn px js is

/-- The duplicate check of R150 on the points 0 to n-1. -/
def findDuplicate (px : Nat → Byte) (n : Nat) : Option (Nat × Nat) :=
  findDuplicateIn px (List.range n) (List.range n)

/-- The inner loop of R150: the product of gf_div(PX[j], gf_sub(PX[i], PX[j])) over the listed j ≠ i, from basis on. -/
def basisLoop (px : Nat → Byte) (i : Nat) : List Nat → Byte → Except ErrKind Byte
  | [], basis => .ok basis
  | j :: js, basis =>
    if j = i then basisLoop px i js basis
    else
      match gfDiv (px j) (gfSub (px i) (px j)) with
      | .ok q => basisLoop px i js (gfMul basis q)
      | .error e => .error e

/-- The outer loop of R150: the sum of gf_mul(PY[i], basis_i) over the listed i, from acc on. -/
def lagrangeLoop (px py : Nat → Byte) (js : List Nat) : List Nat → Byte → Except ErrKind Byte
  | [], acc => .ok acc
  | i :: is, acc =>
    match basisLoop px i js 1 with
    | .ok basis => lagrangeLoop px py js is (gfAdd acc (gfMul (py i) basis))
    | .error e => .error e

/-- INTERP's function (R150) on the points 0 to n-1: the two failures, then the value at 0. -/
def interpAtZero (px py : Nat → Byte) (n : Nat) : Except ErrKind Byte :=
  if n = 0 then .error .emptyPointSet
  else
    match findDuplicate px n with
    | some (i, j) => .error (.duplicateXCoordinate (px i) (BitVec.ofNat 8 i) (BitVec.ofNat 8 j))
    | none => lagrangeLoop px py (List.range n) (List.range n) 0

end Sys2Proof.Machine
end

