-- ==== Sys2Proof/Machine/Flags.lean ====
section
/-! DEFINITION. The status fields ERR, ERRSEEN and ERRINFO (spec/10_state.md R27, R28, R30) and how a completed command
writes them; the values STATUS and ERRINFO read as (R25, R30). -/

namespace Sys2Proof.Machine

/-- The code of an error kind (60_exceptions.md R200). -/
def ErrKind.code : ErrKind → BitVec 4
  | .zeroHasNoInverse => 0x1
  | .divisionByZero => 0x2
  | .polynomialNotInvertible => 0x3
  | .duplicateXCoordinate _ _ _ => 0x4
  | .emptyPointSet => 0x5
  | .illegalCommand => 0x6

/-- ERRX of a failure: the duplicated x, 0 for every other kind (60_exceptions.md R200). -/
def ErrKind.infoX : ErrKind → Byte
  | .duplicateXCoordinate x _ _ => x
  | _ => 0

/-- ERRI of a failure: the first index of the pair, 0 for every other kind (60_exceptions.md R200). -/
def ErrKind.infoI : ErrKind → Byte
  | .duplicateXCoordinate _ i _ => i
  | _ => 0

/-- ERRJ of a failure: the second index of the pair, 0 for every other kind (60_exceptions.md R200). -/
def ErrKind.infoJ : ErrKind → Byte
  | .duplicateXCoordinate _ _ j => j
  | _ => 0

/-- The status writes of a successful command: ERR, ERRX, ERRI and ERRJ <- 0 (10_state.md R27, R30); ERRSEEN stays
(R28). -/
def State.recordSuccess (s : State) : State :=
  { s with err := 0, errX := 0, errI := 0, errJ := 0 }

/-- The status writes of a failed command (60_exceptions.md R210): ERR <- code, ERRSEEN <- 1 and the information. -/
def State.recordFailure (e : ErrKind) (s : State) : State :=
  { s with err := e.code, errSeen := true, errX := e.infoX, errI := e.infoI, errJ := e.infoJ }

/-- ERRSEEN <- 0, by CLRERR (44_control.md R192). -/
def State.clearErrSeen (s : State) : State := { s with errSeen := false }

/-- What STATUS reads as: BUSY, 18 zero bits, ERRSEEN, ERR, R (10_state.md R25, 20_memory.md R56). -/
def State.status (s : State) : Word :=
  BitVec.ofBool s.busy ++ 0#18 ++ BitVec.ofBool s.errSeen ++ s.err ++ s.r

/-- What ERRINFO reads as: 8 zero bits, ERRJ, ERRI, ERRX (10_state.md R30, 20_memory.md R56). -/
def State.errInfo (s : State) : Word :=
  0#8 ++ s.errJ ++ s.errI ++ s.errX

end Sys2Proof.Machine
end

