-- ==== Sys2Proof/Machine/Ops.lean ====
section
/-! DEFINITION. The named operations over memory and registers: reading and writing an entry of a memory
(spec/20_memory.md R52, R53), writing R, the one completion step of a command (spec/10_state.md R26), and what a failure
does (spec/60_exceptions.md R210), which is CORE's only form of exception (R211). -/

namespace Sys2Proof.Machine

/-- What an entry not written since reset reads as (70_reset_and_hazards.md R242). -/
def Memory.unwritten : Byte := 0x00

/-- The cells are in canonical form and all their indices are at least lo. -/
def Memory.wfFrom : Nat → Memory → Bool
  | _, [] => true
  | lo, (k, b) :: rest =>
    decide (lo ≤ k) && decide (k < Config.memoryDepth) && b != Memory.unwritten && Memory.wfFrom (k + 1) rest

/-- The canonical form: indices strictly rising and below 256, no cell that reads as an unlisted one. -/
def Memory.wf (m : Memory) : Bool := Memory.wfFrom 0 m

/-- The value of entry i (20_memory.md R52, R53). Every 8-bit index names an entry. -/
def Memory.read : Memory → Byte → Byte
  | [], _ => Memory.unwritten
  | (k, b) :: rest, i => if k = i.toNat then b else Memory.read rest i

/-- The cell of a value at an index: none listed where it is what an unlisted index reads as. -/
def Memory.cell (k : Nat) (v : Byte) : Memory :=
  if v = Memory.unwritten then [] else [(k, v)]

/-- Entry i gets the value v; the canonical form is kept. -/
def Memory.write : Memory → Byte → Byte → Memory
  | [], i, v => Memory.cell i.toNat v
  | (k, b) :: rest, i, v =>
    if i.toNat < k then Memory.cell i.toNat v ++ (k, b) :: rest
    else if i.toNat = k then Memory.cell i.toNat v ++ rest
    else (k, b) :: Memory.write rest i v

/-- COEF as a function of the index (00_scope.md R8). -/
def State.coefAt (s : State) (k : Nat) : Byte := Memory.read s.coef (BitVec.ofNat 8 k)

/-- PX as a function of the index (00_scope.md R8). -/
def State.pxAt (s : State) (k : Nat) : Byte := Memory.read s.px (BitVec.ofNat 8 k)

/-- PY as a function of the index (00_scope.md R8). -/
def State.pyAt (s : State) (k : Nat) : Byte := Memory.read s.py (BitVec.ofNat 8 k)

/-- R <- v (00_scope.md R8). -/
def State.writeR (v : Byte) (s : State) : State := { s with r := v }

/-- COEF[i] <- v (43_data_movement.md R170). -/
def State.writeCoef (i v : Byte) (s : State) : State := { s with coef := Memory.write s.coef i v }

/-- PX[i] <- x and PY[i] <- y, in one step (43_data_movement.md R171). -/
def State.writePoint (i x y : Byte) (s : State) : State :=
  { s with px := Memory.write s.px i x, py := Memory.write s.py i y }

/-- The end of every completion step: BUSY <- 0, pending <- none (10_state.md R26). -/
def State.retire (s : State) : State := { s with pending := none, busy := false }

/-- A successful command completes: its writes are in s already, then the status writes and the end of BUSY, all in one
step (10_state.md R26, R27, R30). -/
def succeed (s : State) : Host.Outcome State Fault Refusal := .next s.recordSuccess.retire

/-- A command fails with the kind e (60_exceptions.md R210): one step that writes only the status fields. This is what
taking an exception is on CORE, which has no trap (R211), and no return from one (R212). PolynomialNotInvertible, which
no input reaches, is a fault of the model (93_implementation_defined.md I3). -/
def raise (e : ErrKind) (s : State) : Host.Outcome State Fault Refusal :=
  match e with
  | .polynomialNotInvertible => .fault .polynomialNotInvertible
  | e => .next (s.recordFailure e).retire

/-- A command whose result goes to R: R <- v on success, a failure otherwise. -/
def finishR (v : Except ErrKind Byte) (s : State) : Host.Outcome State Fault Refusal :=
  match v with
  | .ok v => succeed (s.writeR v)
  | .error e => raise e s

/-- A word that is not a legal command completes as IllegalCommand, and no field of it is acted on
(60_exceptions.md R201). -/
def illegalCommand (s : State) : Host.Outcome State Fault Refusal := raise .illegalCommand s

end Sys2Proof.Machine
end

