-- ==== Sys2Proof/Machine/Bus.lean ====
section
/-! DEFINITION. The register window as the host sees it: which register an access reaches (spec/20_memory.md R55, R56,
R58), what a read returns (R56; spec/10_state.md R23 to R30), and the acceptance of a command (10_state.md R24). -/

namespace Sys2Proof.Machine

/-- The four registers of the window (10_state.md R23). -/
inductive WindowReg where
  | cmd
  | status
  | errinfo
  | id
deriving DecidableEq, Repr

/-- Where a bus access goes. -/
inductive Target where
  /-- the address does not select CORE's window (20_memory.md R51) -/
  | outside
  /-- a sub-word or misaligned access of the window (20_memory.md R58) -/
  | busError
  /-- a whole 32-bit access of a register -/
  | reg (g : WindowReg)
deriving DecidableEq, Repr

/-- The register at an offset of the window (10_state.md R23), none where the offset is no multiple of 4. -/
def windowReg : Nat → Option WindowReg
  | 0x0 => some .cmd
  | 0x4 => some .status
  | 0x8 => some .errinfo
  | 0xC => some .id
  | _ => none

/-- Where an access of a width (in bytes) at an offset of the window goes: only 32-bit accesses at multiples of 4 reach
a register, anything else gets a bus error response (20_memory.md R58). -/
def windowTarget (off width : Nat) : Target :=
  if width = 4 then
    match windowReg off with
    | some g => .reg g
    | none => .busError
  else .busError

/-- Where an access at a bus byte address goes (20_memory.md R55, R56): off = addr - CORE_BASE. -/
def targetOf (addr width : Nat) : Target :=
  if Config.coreBase ≤ addr ∧ addr < Config.coreBase + Config.windowBytes then
    windowTarget (addr - Config.coreBase) width
  else .outside

/-- What a read of a register returns (20_memory.md R56). -/
def State.readReg (s : State) : WindowReg → Word
  | .cmd => 0x00000000
  | .status => s.status
  | .errinfo => s.errInfo
  | .id => Config.idValue

/-- A command word is accepted: pending <- w, BUSY <- 1 (10_state.md R24). -/
def State.accept (w : Word) (s : State) : State := { s with pending := some w, busy := true }

/-- The bus answers the host. -/
def State.respond (b : BusResponse) (s : State) : State := { s with responses := b :: s.responses }

/-- The first event of the agenda is done; rest is what the host does after it. -/
def State.advance (rest : List HostEvent) (s : State) : State := { s with agenda := rest }

/-- Reset is asserted (70_reset_and_hazards.md R240): all of CORE's state takes the reset values, whatever it was doing;
the host's own record stays. -/
def State.enterReset (s : State) : State :=
  { State.reset with resetAsserted := true, agenda := s.agenda, responses := s.responses }

/-- Reset is released (70_reset_and_hazards.md R240, R241); without effect where it is not asserted. -/
def State.leaveReset (s : State) : State := { s with resetAsserted := false }

/-- Initialisation ends, or CORE idles: BUSY <- 0 (70_reset_and_hazards.md R241). -/
def State.becomeReady (s : State) : State := { s with busy := false }

end Sys2Proof.Machine
end

