-- ==== Sys2Proof/Machine/Operands.lean ====
section
/-! DEFINITION. The values of operands (spec/30_encoding.md R84): every field is an unsigned 8-bit value, nothing is
extended, scaled or shifted. -/

namespace Sys2Proof.Machine

/-- The value of a value operand: the literal of its field, or R (R84). R cannot change while the command is pending,
so its value at completion is its value at acceptance. -/
def operand (o : Src) (s : State) : Byte :=
  match o with
  | .lit v => v
  | .r => s.r

/-- A value operand used as a count, and an index or degree: the unsigned number of its 8 bits (R84). -/
def asCount (v : Byte) : Nat := v.toNat

end Sys2Proof.Machine
end

