-- ==== Sys2Proof/Machine/Arith.lean ====
section
/-! DEFINITION. The field commands ADD, SUB, MUL, INV and DIV (spec/40_field_arith.md section 2). -/

namespace Sys2Proof.Machine

/-- ADD: R <- gf_add(opA, opB) (R120). -/
def execAdd (a b : Src) (s : State) : Host.Outcome State Fault Refusal :=
  finishR (.ok (gfAdd (operand a s) (operand b s))) s

/-- SUB: R <- gf_sub(opA, opB) (R121). -/
def execSub (a b : Src) (s : State) : Host.Outcome State Fault Refusal :=
  finishR (.ok (gfSub (operand a s) (operand b s))) s

/-- MUL: R <- gf_mul(opA, opB) (R122). -/
def execMul (a b : Src) (s : State) : Host.Outcome State Fault Refusal :=
  finishR (.ok (gfMul (operand a s) (operand b s))) s

/-- DIV: R <- gf_div(opA, opB), DivisionByZero when opB = 0 (R124). -/
def execDiv (a b : Src) (s : State) : Host.Outcome State Fault Refusal :=
  finishR (gfDiv (operand a s) (operand b s)) s

/-- INV: R <- gf_inv(opA), ZeroHasNoInverse when opA = 0 (R123). -/
def execInv (a : Src) (s : State) : Host.Outcome State Fault Refusal :=
  finishR (gfInv (operand a s)) s

end Sys2Proof.Machine
end

