-- ==== Sys2Proof/Machine/Control.lean ====
section
/-! DEFINITION. The control commands NOP and CLRERR (spec/44_control.md). -/

namespace Sys2Proof.Machine

/-- NOP: nothing beyond the status writes every command makes (R190). -/
def execNop (s : State) : Host.Outcome State Fault Refusal := succeed s

/-- CLRERR: ERRSEEN <- 0, plus the status writes every command makes (R192). -/
def execClrerr (s : State) : Host.Outcome State Fault Refusal := succeed s.clearErrSeen

end Sys2Proof.Machine
end

