-- ==== Sys2Proof/Machine/DataMove.lean ====
section
/-! DEFINITION. The operand memory commands LDC, LDP, RDC, RDPX and RDPY (spec/43_data_movement.md). -/

namespace Sys2Proof.Machine

/-- LDC: COEF[i] <- v (R170). -/
def execLdc (i : Byte) (v : Src) (s : State) : Host.Outcome State Fault Refusal :=
  succeed (s.writeCoef i (operand v s))

/-- LDP: PX[i] <- x; PY[i] <- y (R171). -/
def execLdp (i : Byte) (x y : Src) (s : State) : Host.Outcome State Fault Refusal :=
  succeed (s.writePoint i (operand x s) (operand y s))

/-- RDC: R <- COEF[i] (R172). -/
def execRdc (i : Byte) (s : State) : Host.Outcome State Fault Refusal :=
  finishR (.ok (Memory.read s.coef i)) s

/-- RDPX: R <- PX[i] (R173). -/
def execRdpx (i : Byte) (s : State) : Host.Outcome State Fault Refusal :=
  finishR (.ok (Memory.read s.px i)) s

/-- RDPY: R <- PY[i] (R174). -/
def execRdpy (i : Byte) (s : State) : Host.Outcome State Fault Refusal :=
  finishR (.ok (Memory.read s.py i)) s

end Sys2Proof.Machine
end

