-- ==== Sys2Proof/Machine/Poly.lean ====
section
/-! DEFINITION. The commands over whole memories: EVAL (spec/41_polynomial.md R140) and INTERP
(spec/42_interpolation.md R150). -/

namespace Sys2Proof.Machine

/-- EVAL: R <- COEF[0] + COEF[1] x + ... + COEF[d] x^d, by Horner's rule (41_polynomial.md R140). -/
def execEval (d : Byte) (x : Src) (s : State) : Host.Outcome State Fault Refusal :=
  finishR (.ok (evalPoly s.coefAt (asCount d) (operand x s))) s

/-- INTERP: R <- the value at 0 of the polynomial through the points 0 to n-1, EmptyPointSet when n = 0 and
DuplicateXCoordinate when two of them share an x (42_interpolation.md R150). -/
def execInterp (n : Src) (s : State) : Host.Outcome State Fault Refusal :=
  finishR (interpAtZero s.pxAt s.pyAt (asCount (operand n s))) s

end Sys2Proof.Machine
end

