-- ==== Sys2Proof/Machine/Dispatch.lean ====
section
/-! DEFINITION. One arm per command: the completion step of a decoded command (spec/10_state.md R26). -/

namespace Sys2Proof.Machine

def exec (i : Instr) (s : State) : Host.Outcome State Fault Refusal :=
  match i with
  | .nop => Sys2Proof.Machine.execNop s
  | .add a b => Sys2Proof.Machine.execAdd a b s
  | .sub a b => Sys2Proof.Machine.execSub a b s
  | .mul a b => Sys2Proof.Machine.execMul a b s
  | .div a b => Sys2Proof.Machine.execDiv a b s
  | .inv a => Sys2Proof.Machine.execInv a s
  | .eval d x => Sys2Proof.Machine.execEval d x s
  | .interp n => Sys2Proof.Machine.execInterp n s
  | .ldc j v => Sys2Proof.Machine.execLdc j v s
  | .ldp j x y => Sys2Proof.Machine.execLdp j x y s
  | .rdc j => Sys2Proof.Machine.execRdc j s
  | .rdpx j => Sys2Proof.Machine.execRdpx j s
  | .rdpy j => Sys2Proof.Machine.execRdpy j s
  | .clrerr => Sys2Proof.Machine.execClrerr s

end Sys2Proof.Machine
end

