-- ==== Sys2Proof/Machine/Run.lean ====
section
/-! DEFINITION. What CORE does when it is its turn, what a host access does, and what an event of the host does; Step.lean
only chooses among them. -/

namespace Sys2Proof.Machine

/-- The completion of a pending command word (spec/10_state.md R26): the effect of the command it decodes to, or
IllegalCommand (60_exceptions.md R201). -/
def complete (w : Word) (s : State) : Host.Outcome State Fault Refusal :=
  match decode w with
  | .ok i => exec i s
  | .error _ => illegalCommand s

/-- CORE moves. Held in reset, it does nothing; with a command pending, it completes it (10_state.md R26); with none,
it ends its initialisation (70_reset_and_hazards.md R241) or stays idle (notes/assumptions/11.md). -/
def coreMove (s : State) : Host.Outcome State Fault Refusal :=
  if s.resetAsserted then .next s
  else
    match s.pending with
    | some w => complete w s
    | none => .next s.becomeReady

/-- A host write of w to CMD, the first event of the agenda, with rest after it (10_state.md R24): accepted at once when
BUSY = 0; held while BUSY = 1, so that CORE moves and the access stays first in the agenda. -/
def writeCmd (w : Word) (rest : List HostEvent) (s : State) : Host.Outcome State Fault Refusal :=
  if s.busy then coreMove s
  else .next (((s.accept w).respond .writeDone).advance rest)

/-- A host access that reaches a register of the window (20_memory.md R56): reads answer the register's value, writes to
the read-only registers are ignored and complete. -/
def accessReg (a : Access) (g : WindowReg) (rest : List HostEvent) (s : State) : Host.Outcome State Fault Refusal :=
  match a, g with
  | .read _ _, g => .next ((s.respond (.data (s.readReg g))).advance rest)
  | .write _ _ w, .cmd => writeCmd w rest s
  | .write _ _ _, .status | .write _ _ _, .errinfo | .write _ _ _, .id => .next ((s.respond .writeDone).advance rest)

/-- Where an access goes. -/
def Access.target : Access → Target
  | .read addr width => targetOf addr width
  | .write addr width _ => targetOf addr width

/-- A host access, the first event of the agenda (20_memory.md R56, R58). -/
def busAccess (a : Access) (rest : List HostEvent) (s : State) : Host.Outcome State Fault Refusal :=
  if s.resetAsserted then .fault .accessDuringReset
  else
    match a.target with
    | .outside => .refused .outsideWindow
    | .busError => .next ((s.respond .busError).advance rest)
    | .reg g => accessReg a g rest s

/-- The first event of the agenda happens. -/
def hostEvent (e : HostEvent) (rest : List HostEvent) (s : State) : Host.Outcome State Fault Refusal :=
  match e with
  | .access a => busAccess a rest s
  | .wait => coreMove (s.advance rest)
  | .assertReset => .next (s.enterReset.advance rest)
  | .releaseReset => .next (s.leaveReset.advance rest)

/-- The command word w is pending and CORE moves next: what a host write of w to CMD leaves in an idle CORE
(notes/assumptions/14.md). -/
def State.withPendingWord (w : Word) (s : State) : State :=
  { s.accept w with resetAsserted := false, agenda := .wait :: s.agenda }

end Sys2Proof.Machine
end

