-- ==== Sys2Proof/Machine/Step.lean ====
section
/-! DEFINITION. One step of the machine, and where a step takes its next command from. CORE has no program counter
(spec/10_state.md R21): the command a step runs is the pending one. -/

namespace Sys2Proof.Machine

/-- One step: the first event of the agenda happens; with the agenda empty, CORE moves. -/
def step (s : State) : Host.Outcome State Fault Refusal :=
  match s.agenda with
  | [] => coreMove s
  | e :: rest => hostEvent e rest s

/-- The state in which the next step runs the instruction of nbits bits w: its word is pending, and CORE moves next. -/
def State.withFetchWord (s : State) (nbits w : Nat) : State := s.withPendingWord (tableWord nbits w)

end Sys2Proof.Machine
end

