-- ==== Sys2Proof/Machine/Assembler.lean ====
section
/-! DEFINITION. The assembler and the disassembler (spec/30_encoding.md R88 to R91), on lists of characters: reading a
line (R88), its word (R89), the pseudo-instructions (R91), and the text of a word (R90). The lexical points the spec
leaves open are in notes/assumptions/12.md. -/

namespace Sys2Proof.Asm

/-- White space between the parts of a line. -/
def isBlank (c : Char) : Bool := c = ' ' || c = '\t'

/-- The line without white space at its ends. -/
def trim (cs : List Char) : List Char := ((cs.dropWhile isBlank).reverse.dropWhile isBlank).reverse

/-- The line without its comment, which begins with ; (R88). -/
def dropComment (cs : List Char) : List Char := cs.takeWhile (fun c => c != ';')

/-- The parts between commas (R88). -/
def splitCommas : List Char → List (List Char)
  | [] => [[]]
  | c :: cs =>
    if c = ',' then [] :: splitCommas cs
    else
      match splitCommas cs with
      | [] => [[c]]
      | t :: ts => (c :: t) :: ts

/-- The upper case of a letter; mnemonics are matched without regard to case (R88). -/
def upper (c : Char) : Char := if 97 ≤ c.toNat ∧ c.toNat ≤ 122 then Char.ofNat (c.toNat - 32) else c

/-- The text of a command's mnemonic (R89). -/
def mnemonicText : Opcode → List Char
  | .nop => ['N', 'O', 'P']
  | .add => ['A', 'D', 'D']
  | .sub => ['S', 'U', 'B']
  | .mul => ['M', 'U', 'L']
  | .div => ['D', 'I', 'V']
  | .inv => ['I', 'N', 'V']
  | .eval => ['E', 'V', 'A', 'L']
  | .interp => ['I', 'N', 'T', 'E', 'R', 'P']
  | .ldc => ['L', 'D', 'C']
  | .ldp => ['L', 'D', 'P']
  | .rdc => ['R', 'D', 'C']
  | .rdpx => ['R', 'D', 'P', 'X']
  | .rdpy => ['R', 'D', 'P', 'Y']
  | .clrerr => ['C', 'L', 'R', 'E', 'R', 'R']

/-- The mnemonics of R89 and R91 in upper case. -/
def mnemonics : List (List Char × AsmOp) :=
  [ (mnemonicText .nop, .core .nop), (mnemonicText .add, .core .add), (mnemonicText .sub, .core .sub),
    (mnemonicText .mul, .core .mul), (mnemonicText .div, .core .div), (mnemonicText .inv, .core .inv),
    (mnemonicText .eval, .core .eval), (mnemonicText .interp, .core .interp), (mnemonicText .ldc, .core .ldc),
    (mnemonicText .ldp, .core .ldp), (mnemonicText .rdc, .core .rdc), (mnemonicText .rdpx, .core .rdpx),
    (mnemonicText .rdpy, .core .rdpy), (mnemonicText .clrerr, .core .clrerr) ] ++
  [ (['M', 'O', 'V'], .mov), (['C', 'L', 'R', 'R'], .clrr), (['N', 'E', 'G'], .neg), (['S', 'Q', 'R'], .sqr),
    (['L', 'D', 'C', 'R'], .ldcr) ]

/-- The mnemonic with a text, whatever its case (R88). -/
def mnemonicOf (cs : List Char) : Option AsmOp := List.lookup (cs.map upper) mnemonics

/-- The value of a decimal digit. -/
def decDigit (c : Char) : Option Nat := if 48 ≤ c.toNat ∧ c.toNat ≤ 57 then some (c.toNat - 48) else none

/-- The value of a hex digit of either case. -/
def hexDigit (c : Char) : Option Nat :=
  if 48 ≤ c.toNat ∧ c.toNat ≤ 57 then some (c.toNat - 48)
  else if 97 ≤ c.toNat ∧ c.toNat ≤ 102 then some (c.toNat - 87)
  else if 65 ≤ c.toNat ∧ c.toNat ≤ 70 then some (c.toNat - 55)
  else none

/-- The value of decimal digits after a value already read. -/
def decValue : List Char → Nat → Option Nat
  | [], acc => some acc
  | c :: cs, acc =>
    match decDigit c with
    | some d => decValue cs (10 * acc + d)
    | none => none

/-- The value of one or two hex digits (R88). -/
def hexValue : List Char → Option Nat
  | [c] => hexDigit c
  | [c, d] =>
    match hexDigit c, hexDigit d with
    | some h, some l => some (16 * h + l)
    | _, _ => none
  | _ => none

/-- An operand (R88): r, 0x and one or two hex digits, or decimal digits. -/
def operandOf : List Char → Except AsmError AsmOperand
  | [] => .error .badOperand
  | ['r'] => .ok .r
  | '0' :: 'x' :: cs =>
    match hexValue cs with
    | some v => .ok (.lit v)
    | none => .error .badOperand
  | cs =>
    match decValue cs 0 with
    | some v => .ok (.lit v)
    | none => .error .badOperand

/-- The operands, each with the white space around it removed. -/
def operandsOf : List (List Char) → Except AsmError (List AsmOperand)
  | [] => .ok []
  | t :: ts =>
    match operandOf (trim t), operandsOf ts with
    | .ok o, .ok os => .ok (o :: os)
    | .error e, _ => .error e
    | _, .error e => .error e

/-- The operand part of a line: empty, or operands separated by commas (R88). -/
def operandPart (cs : List Char) : Except AsmError (List AsmOperand) :=
  match cs with
  | [] => .ok []
  | _ => operandsOf (splitCommas cs)

/-- A line read (R88): a mnemonic, then its operands separated by commas, then an optional comment. -/
def parseLine (text : List Char) : Except AsmError AsmLine :=
  let body := trim (dropComment text)
  match mnemonicOf (body.takeWhile (fun c => !isBlank c)) with
  | none => .error .unknownMnemonic
  | some op =>
    match operandPart (trim (body.dropWhile (fun c => !isBlank c))) with
    | .ok os => .ok ⟨op, os⟩
    | .error e => .error e

/-- The operand source a value operand stands for; the checks of WellFormed.lean keep its literal in 8 bits. -/
def srcOf : AsmOperand → Src
  | .lit v => .lit (BitVec.ofNat 8 v)
  | .r => .r

/-- The index, degree or literal a literal operand stands for; the checks of WellFormed.lean exclude r there. -/
def byteOf : AsmOperand → Byte
  | .lit v => BitVec.ofNat 8 v
  | .r => 0

/-- The command of a line whose operands passed the checks: R89, and the expansions of R91 for the pseudo-instructions. -/
def expand : AsmOp → List AsmOperand → Except AsmError Instr
  | .core .nop, [] => .ok .nop
  | .core .add, [a, b] => .ok (.add (srcOf a) (srcOf b))
  | .core .sub, [a, b] => .ok (.sub (srcOf a) (srcOf b))
  | .core .mul, [a, b] => .ok (.mul (srcOf a) (srcOf b))
  | .core .div, [a, b] => .ok (.div (srcOf a) (srcOf b))
  | .core .inv, [a] => .ok (.inv (srcOf a))
  | .core .eval, [d, x] => .ok (.eval (byteOf d) (srcOf x))
  | .core .interp, [n] => .ok (.interp (srcOf n))
  | .core .ldc, [i, v] => .ok (.ldc (byteOf i) (srcOf v))
  | .core .ldp, [i, x, y] => .ok (.ldp (byteOf i) (srcOf x) (srcOf y))
  | .core .rdc, [i] => .ok (.rdc (byteOf i))
  | .core .rdpx, [i] => .ok (.rdpx (byteOf i))
  | .core .rdpy, [i] => .ok (.rdpy (byteOf i))
  | .core .clrerr, [] => .ok .clrerr
  | .mov, [v] => .ok (.add (srcOf v) (.lit 0))
  | .clrr, [] => .ok (.add (.lit 0) (.lit 0))
  | .neg, [a] => .ok (.sub (.lit 0) (srcOf a))
  | .sqr, [a] => .ok (.mul (srcOf a) (srcOf a))
  | .ldcr, [i] => .ok (.ldc (byteOf i) .r)
  | _, _ => .error .wrongOperandCount

/-- The command of a line, or why the assembler rejects it (R89). -/
def instrOf (l : AsmLine) : Except AsmError Instr :=
  match l.check with
  | some e => .error e
  | none => expand l.op l.operands

/-- The word of a line of text, or why the assembler rejects it (R88, R89, R91). -/
def assemble (text : List Char) : Except AsmError Word :=
  match parseLine text with
  | .error e => .error e
  | .ok l =>
    match instrOf l with
    | .error e => .error e
    | .ok i => .ok (encode i)

/-- A lowercase hex digit (R90). -/
def hexChar (n : Nat) : Char := if n < 10 then Char.ofNat (48 + n) else Char.ofNat (87 + n)

/-- A literal as 0x and two lowercase hex digits (R90). -/
def litText (v : Byte) : List Char := ['0', 'x', hexChar (v.toNat / 16), hexChar (v.toNat % 16)]

/-- A value operand (R90). -/
def srcText : Src → List Char
  | .lit v => litText v
  | .r => ['r']

/-- The operands of a command in the order of the syntax (R89). -/
def operandTexts : Instr → List (List Char)
  | .nop | .clrerr => []
  | .add a b | .sub a b | .mul a b | .div a b => [srcText a, srcText b]
  | .inv a | .interp a => [srcText a]
  | .eval d x => [litText d, srcText x]
  | .ldc i v => [litText i, srcText v]
  | .ldp i x y => [litText i, srcText x, srcText y]
  | .rdc i | .rdpx i | .rdpy i => [litText i]

/-- Operands after the first, each after a comma and a space. -/
def moreOperands : List (List Char) → List Char
  | [] => []
  | t :: ts => ',' :: ' ' :: t ++ moreOperands ts

/-- The line of a command (R90). -/
def lineText (i : Instr) : List Char :=
  match operandTexts i with
  | [] => mnemonicText i.opcode
  | t :: ts => mnemonicText i.opcode ++ ' ' :: t ++ moreOperands ts

/-- Eight lowercase hex digits (R90). -/
def wordText (w : Word) : List Char :=
  [7, 6, 5, 4, 3, 2, 1, 0].map (fun k => hexChar (w.toNat / 16 ^ k % 16))

/-- The disassembly of a word (R90): the line of a legal word, or .word 0x and its eight digits. -/
def disassemble (w : Word) : List Char :=
  match decode w with
  | .ok i => lineText i
  | .error _ => ['.', 'w', 'o', 'r', 'd', ' ', '0', 'x'] ++ wordText w

end Sys2Proof.Asm
end

