-- ==== Sys2Proof/Safety.lean ====
section
/-! DEFINITION. The terms the claims use: when it is CORE's turn, what a completed and a failed command leave, when a
state is a state of CORE, what a safe step is, and the specification-side vocabulary (words, operand sources, sums and
products in the field, batches of commands). -/

namespace Sys2Proof.Machine

/-- The state an outcome answers, none for a fault or a refusal. -/
def stateAfter : Host.Outcome State Fault Refusal → Option State
  | .next t => some t
  | .fault _ => none
  | .refused _ => none

/-- A safe step answers a next state. -/
def SafeStep (s : State) : Prop := ∃ t, step s = .next t

/-- k steps, stopping at the first outcome that is no next state. -/
def runSteps : Nat → State → Host.Outcome State Fault Refusal
  | 0, s => .next s
  | k + 1, s =>
    match step s with
    | .next t => runSteps k t
    | .fault f => .fault f
    | .refused r => .refused r

/-- The next step is CORE's, on the state t: the host does nothing more, waits, or its CMD write is held because
BUSY = 1 (spec/10_state.md R24). -/
inductive CoreTurn : State → State → Prop where
  | idle (s : State) (h : s.agenda = []) : CoreTurn s s
  | wait (s : State) (rest : List HostEvent) (h : s.agenda = .wait :: rest) : CoreTurn s { s with agenda := rest }
  | held (s : State) (rest : List HostEvent) (w : Word)
      (h : s.agenda = .access (.write Config.coreBase 4 w) :: rest) (hb : s.busy = true) : CoreTurn s s

/-- What every successful command leaves beside its own writes (spec/10_state.md R26, R27, R30). -/
def State.completed (s : State) : State :=
  { s with err := 0x0, errX := 0x00, errI := 0x00, errJ := 0x00, pending := none, busy := false }

/-- What a failed command leaves (spec/60_exceptions.md R210): the code, ERRSEEN = 1 and the information, and nothing
else but the end of BUSY. -/
def State.failedWith (s : State) (code : BitVec 4) (x i j : Byte) : State :=
  { s with err := code, errSeen := true, errX := x, errI := i, errJ := j, pending := none, busy := false }

/-- Every register and memory entry of CORE has its reset value (spec/10_state.md R20). -/
def State.AtResetValues (s : State) : Prop :=
  s.r = 0x00 ∧ s.err = 0x0 ∧ s.errSeen = false ∧ s.errX = 0x00 ∧ s.errI = 0x00 ∧ s.errJ = 0x00 ∧
    s.coef = [] ∧ s.px = [] ∧ s.py = []

/-- The states of CORE that its rules allow, an invariant of every step. -/
structure State.Inv (s : State) : Prop where
  /-- the memories are in canonical form -/
  coefWf : Memory.wf s.coef = true
  pxWf : Memory.wf s.px = true
  pyWf : Memory.wf s.py = true
  /-- BUSY is 1 while a command is pending (spec/10_state.md R26) -/
  pendingBusy : s.pending.isSome = true → s.busy = true
  /-- BUSY = 1 with nothing pending is the initialisation after reset (spec/10_state.md R26, 70_reset_and_hazards.md
  R241): everything has its reset value -/
  initialising : s.busy = true → s.pending = none → s.AtResetValues
  /-- CORE is held in its reset state while reset is asserted (70_reset_and_hazards.md R240) -/
  underReset : s.resetAsserted = true → s.busy = true ∧ s.pending = none
  /-- the codes ever written (spec/60_exceptions.md R200, R203): not 3, not 7 to 15 -/
  errCode : s.err ∈ [0x0#4, 0x1#4, 0x2#4, 0x4#4, 0x5#4, 0x6#4]
  /-- a failure just recorded is recorded in ERRSEEN too (spec/10_state.md R28) -/
  errSticky : s.err ≠ 0x0 → s.errSeen = true
  /-- ERRINFO is 0 but after DuplicateXCoordinate (spec/10_state.md R30) -/
  infoZero : s.err ≠ 0x4 → s.errX = 0x00 ∧ s.errI = 0x00 ∧ s.errJ = 0x00
  /-- after DuplicateXCoordinate it names two entries i < j of the point memory with that x (42_interpolation.md R153) -/
  infoPair : s.err = 0x4 →
    s.errI < s.errJ ∧ s.errJ < 0xFF ∧ Memory.read s.px s.errI = s.errX ∧ Memory.read s.px s.errJ = s.errX

/-- A word with this opcode field that is not legal completes, on CORE's turn, as IllegalCommand and changes nothing
else (spec/30_encoding.md R87, 60_exceptions.md R201). -/
def IllegalOtherwise (op : BitVec 6) : Prop :=
  ∀ (w : Word) (s t : State), w.extractLsb' 26 6 = op → legal w = false → CoreTurn s t → s.resetAsserted = false →
    s.pending = some w → step s = .next (t.failedWith 0x6 0x00 0x00 0x00)

/-- The word with these fields, and no other word, decodes to the command (spec/30_encoding.md R86, R89). -/
def EncodedAs (i : Instr) (c : CW) : Prop := ∀ w, decode w = .ok i ↔ w = c.toWord

/-- The word of a command by the formula of spec/30_encoding.md R89: the opcode, the index or degree, and the F1 and F0
operands; for an operand written r the select bit is 1 and the field 0, and an operand the syntax lacks is the literal 0. -/
def syntaxWord (op : Word) (idx : Byte) (a b : Src) : Word :=
  op <<< 26 ||| (if a = .r then 1 else 0) <<< 25 ||| (if b = .r then 1 else 0) <<< 24 |||
    idx.setWidth 32 <<< 16 ||| (literalOf a).setWidth 32 <<< 8 ||| (literalOf b).setWidth 32
where
  /-- L(v), and 0 for r -/
  literalOf : Src → Byte
    | .lit v => v
    | .r => 0

/-- An operand as it stands in a line. -/
def asmOperand : Src → AsmOperand
  | .lit v => .lit v.toNat
  | .r => .r

/-- The text of a line: the mnemonic, and after a blank the operands separated by commas (spec/30_encoding.md R88). -/
def syntaxText (mnemonic : String) : List Src → List Char
  | [] => mnemonic.toList
  | a :: as => mnemonic.toList ++ ' ' :: List.intercalate [',', ' '] ((a :: as).map Asm.srcText)

/-- The line of a mnemonic and these operands, in this order, stands for the command and assembles to the word: read as a
line, and as its text (spec/30_encoding.md R88, R89). -/
def SyntaxGives (mnemonic : String) (o : Opcode) (operands : List Src) (i : Instr) (w : Word) : Prop :=
  AsmLine.wf ⟨.core o, operands.map asmOperand⟩ = true ∧
    Asm.instrOf ⟨.core o, operands.map asmOperand⟩ = .ok i ∧ encode i = w ∧
    Asm.assemble (syntaxText mnemonic operands) = .ok w

/-- The F1 operand of a command that has one (spec/30_encoding.md R82): a, x or n. -/
def firstOperand : Instr → Option Src
  | .add a _ | .sub a _ | .mul a _ | .div a _ | .inv a | .eval _ a | .interp a | .ldp _ a _ => some a
  | .nop | .ldc _ _ | .rdc _ | .rdpx _ | .rdpy _ | .clrerr => none

/-- The F0 operand of a command that has one (spec/30_encoding.md R82): b, v or y. -/
def secondOperand : Instr → Option Src
  | .add _ b | .sub _ b | .mul _ b | .div _ b | .ldc _ b | .ldp _ _ b => some b
  | .nop | .inv _ | .eval _ _ | .interp _ | .rdc _ | .rdpx _ | .rdpy _ | .clrerr => none

/-- The index or degree of a command that has one (spec/30_encoding.md R82): F2. -/
def indexOperand : Instr → Option Byte
  | .eval i _ | .ldc i _ | .ldp i _ _ | .rdc i | .rdpx i | .rdpy i => some i
  | .nop | .add _ _ | .sub _ _ | .mul _ _ | .div _ _ | .inv _ | .interp _ | .clrerr => none

/-- x^k in the field: x^0 = 1 and x^(k+1) = gf_mul(x^k, x) (spec/41_polynomial.md R142). -/
def fieldPow (x : Byte) : Nat → Byte
  | 0 => 1
  | k + 1 => gfMul (fieldPow x k) x

/-- The xor of f over a list of indices. -/
def xorSum (f : Nat → Byte) : List Nat → Byte
  | [] => 0
  | k :: ks => f k ^^^ xorSum f ks

/-- The field product of f over a list of indices; 1 over none (spec/42_interpolation.md R151). -/
def fieldProd (f : Nat → Byte) : List Nat → Byte
  | [] => 1
  | k :: ks => gfMul (f k) (fieldProd f ks)

/-- No two of the points 0 to n-1 share an x. -/
def DistinctX (px : Nat → Byte) (n : Nat) : Prop := ∀ i j, i < n → j < n → px i = px j → i = j

/-- The first pair of points with a shared x, in the order of spec/42_interpolation.md R153: i from 0 to n-1 and within it
j from 0 to n-1, j ≠ i. -/
def FirstDuplicate (px : Nat → Byte) (n i j : Nat) : Prop :=
  i < j ∧ j < n ∧ px i = px j ∧ (∀ i' j', i' < i → j' < n → j' ≠ i' → px i' ≠ px j') ∧
    (∀ j', j' < j → j' ≠ i → px i ≠ px j')

/-- Command words completed one after another, with nothing between them: the sequential meaning of a batch
(spec/20_memory.md R63). Every outcome but a next state ends it. -/
def runCommands : List Word → State → Host.Outcome State Fault Refusal
  | [], s => .next s
  | w :: ws, s =>
    match complete w s with
    | .next t => runCommands ws t
    | .fault f => .fault f
    | .refused r => .refused r

/-- The host writes the words to CMD one after another, without waiting (spec/70_reset_and_hazards.md R250). -/
def cmdWrites (ws : List Word) : List HostEvent :=
  ws.map (fun w => .access (.write Config.coreBase 4 w))

/-- The offset of a register in the window (spec/10_state.md R23). -/
def regOffset : WindowReg → Nat
  | .cmd => 0x0
  | .status => 0x4
  | .errinfo => 0x8
  | .id => 0xC

/-- The host reads these registers of the window one after another. -/
def regReads (gs : List WindowReg) : List HostEvent :=
  gs.map (fun g => .access (.read (Config.coreBase + regOffset g) 4))

end Sys2Proof.Machine
end

