-- ==== Sys2Proof/Certificates/Slice0/Obligations.lean ====
section
/-! DEFINITION. The statements for the provers, in the order of OBLIGATIONS.json. Each docstring names the rule of spec/
it formalises, or says that it rests on the model's choice and names the log entry. -/

open Sys2Proof Sys2Proof.Machine

/-! ### Encoding -/

/-- Every command decodes from its encoding, with every operand at every value (30_encoding.md R86, R89). -/
def Obligations.DecodeInvertsEncode : Prop :=
  ∀ i : Instr, decode (encode i) = .ok i

/-- legal(w) clause by clause, the uniqueness it gives, and what an illegal word raises (30_encoding.md R85). -/
def Obligations.LegalityFollowsTheClauses : Prop :=
  (∀ w : Word, legal w = true ↔
    ∃ o : Opcode, o.code = w.extractLsb' 26 6 ∧
      (o.uses.f2 = false → w.extractLsb' 16 8 = 0) ∧
      (o.uses.f1 = false → w.extractLsb' 8 8 = 0) ∧
      (o.uses.f0 = false → w.extractLsb' 0 8 = 0) ∧
      (w.getLsbD 25 = true → o.uses.sa = true ∧ w.extractLsb' 8 8 = 0) ∧
      (w.getLsbD 24 = true → o.uses.sb = true ∧ w.extractLsb' 0 8 = 0)) ∧
  (∀ (w w' : Word) (i : Instr), decode w = .ok i → decode w' = .ok i → w = w') ∧
  (∀ (w : Word) (s : State), legal w = false → complete w s = .next (s.failedWith 0x6 0x00 0x00 0x00))

/-- The match and mask table selects exactly the legal words, and exactly one row for each (30_encoding.md R83, R86). -/
def Obligations.TableRowsSelectTheLegalWords : Prop :=
  (∀ w : Word, legal w = true ↔ (∃ row ∈ opcodeTable, row.selects w = true) ∧ operandSelectOk w = true) ∧
  (∀ (w : Word) (i : Instr), decode w = .ok i →
    ∀ row ∈ opcodeTable, row.selects w = true ↔ row.opcode = i.opcode) ∧
  (∀ w : Word, ∀ row ∈ opcodeTable, ∀ row' ∈ opcodeTable,
    row.selects w = true → row'.selects w = true → row = row')

/-- Operand assembly (30_encoding.md R84). -/
def Obligations.OperandsFollowTheSelectBits : Prop :=
  ∀ (w : Word) (i : Instr) (s : State), decode w = .ok i →
    (∀ a, firstOperand i = some a → operand a s = if w.getLsbD 25 then s.r else w.extractLsb' 8 8) ∧
    (∀ b, secondOperand i = some b → operand b s = if w.getLsbD 24 then s.r else w.extractLsb' 0 8) ∧
    (∀ k, indexOperand i = some k → k = w.extractLsb' 16 8)

/-- The words 30_encoding.md R92 writes out, legal and illegal. -/
def Obligations.ExampleWordsDecode : Prop :=
  (decode 0x04005783 = .ok (.add (.lit 0x57) (.lit 0x83)) ∧ decode 0x0E000013 = .ok (.mul .r (.lit 0x13)) ∧
    decode 0x13000000 = .ok (.div .r .r) ∧ decode 0x14005300 = .ok (.inv (.lit 0x53)) ∧
    decode 0x18020300 = .ok (.eval 2 (.lit 0x03)) ∧ decode 0x1A020000 = .ok (.eval 2 .r) ∧
    decode 0x1C000300 = .ok (.interp (.lit 3)) ∧ decode 0x200100A7 = .ok (.ldc 0x01 (.lit 0xa7)) ∧
    decode 0x21050000 = .ok (.ldc 5 .r) ∧ decode 0x2402039C = .ok (.ldp 2 (.lit 0x03) (.lit 0x9c)) ∧
    decode 0x30FF0000 = .ok (.rdpy 255) ∧ decode 0x34000000 = .ok .clrerr) ∧
  (legal 0x38000000 = false ∧ legal 0x04010000 = false ∧ legal 0x06000100 = false ∧ legal 0x15000000 = false ∧
    legal 0x00000001 = false)

/-- Byte lanes: lane k of a transfer carries bits 8k+7 to 8k, and four lanes carry the word (20_memory.md R57). -/
def Obligations.LanesCarryTheWord : Prop :=
  (∀ (w : Word) (k j : Nat), k < 4 → j < 8 → (lane k w).getLsbD j = w.getLsbD (8 * k + j)) ∧
  (∀ w : Word, decodeLanes (lanesOf w) = decode w)

/-! ### The step -/

/-- On CORE's turn, a step is the completion of the command the pending word decodes to (10_state.md R26). -/
def Obligations.StepRunsTheDecodedCommand : Prop :=
  ∀ (s t : State) (w : Word) (i : Instr), CoreTurn s t → s.resetAsserted = false → s.pending = some w →
    decode w = .ok i → step s = exec i t

/-- The state withFetchWord gives runs that instruction next (the model's interface, notes/assumptions/14.md). -/
def Obligations.FetchWordRunsNext : Prop :=
  ∀ (s : State) (nbits w : Nat) (i : Instr), decodeTableWord nbits w = some i →
    step (s.withFetchWord nbits w) =
      exec i { s with pending := some (BitVec.ofNat 32 (w % 2 ^ nbits)), busy := true, resetAsserted := false }

/-- An illegal word is accepted like any other, and completes as IllegalCommand with nothing else changed
(60_exceptions.md R201); every reserved opcode is illegal (30_encoding.md R87). -/
def Obligations.IllegalWordsCompleteAsIllegalCommand : Prop :=
  (∀ (w : Word) (s : State) (rest : List HostEvent), legal w = false → s.busy = false → s.resetAsserted = false →
    s.agenda = cmdWrites [w] ++ rest →
    step s = .next { s with pending := some w, busy := true, agenda := rest,
                            responses := .writeDone :: s.responses }) ∧
  (∀ (w : Word) (s t : State), legal w = false → CoreTurn s t → s.resetAsserted = false → s.pending = some w →
    step s = .next (t.failedWith 0x6 0x00 0x00 0x00)) ∧
  (∀ w : Word, 0x0D#6 < w.extractLsb' 26 6 → legal w = false)

/-- The only steps that answer no next state are the two host accesses the model stops on: an access while reset is
asserted (93_implementation_defined.md I12, notes/assumptions/8.md) and one that does not select the window
(notes/assumptions/6.md). The second stop is the model's choice. -/
def Obligations.OnlyTwoHostAccessesStop : Prop :=
  ∀ s : State, SafeStep s ∨
    (∃ a rest, s.agenda = .access a :: rest ∧ s.resetAsserted = true ∧ step s = .fault .accessDuringReset) ∨
    (∃ a rest, s.agenda = .access a :: rest ∧ s.resetAsserted = false ∧ a.target = .outside ∧
      step s = .refused .outsideWindow)

/-! ### Reset -/

/-- Reset (70_reset_and_hazards.md R240): the values and the command discarded. The last clause, that CORE's turn changes
nothing while reset is asserted and that releasing it changes only the reset input, is the model's choice
(notes/assumptions/9.md, 11.md). -/
def Obligations.ResetTakesTheResetValues : Prop :=
  (State.reset.AtResetValues ∧ State.reset.pending = none) ∧
  (∀ (s : State) (rest : List HostEvent), s.agenda = .assertReset :: rest →
    ∃ t, step s = .next t ∧ t.AtResetValues ∧ t.pending = none ∧ t.resetAsserted = true ∧ t.agenda = rest ∧
      t.responses = s.responses) ∧
  (∀ s : State, s.resetAsserted = true →
    (s.agenda = [] → step s = .next s) ∧
    (∀ rest, s.agenda = .wait :: rest → step s = .next { s with agenda := rest }) ∧
    (∀ rest, s.agenda = .releaseReset :: rest →
      step s = .next { s with resetAsserted := false, agenda := rest }))

/-- Initialisation (70_reset_and_hazards.md R241): what is read during it, that a CMD write is held, and its end. -/
def Obligations.InitialisationReadsAndEnds : Prop :=
  ∀ s : State, s.AtResetValues → s.busy = true → s.pending = none → s.resetAsserted = false →
    (∀ rest, s.agenda = regReads [.status] ++ rest →
      step s = .next { s with agenda := rest, responses := .data 0x80000000 :: s.responses }) ∧
    (∀ rest, s.agenda = regReads [.errinfo] ++ rest →
      step s = .next { s with agenda := rest, responses := .data 0x00000000 :: s.responses }) ∧
    (∀ rest, s.agenda = regReads [.id] ++ rest →
      step s = .next { s with agenda := rest, responses := .data 0x47460100 :: s.responses }) ∧
    (∀ w rest, s.agenda = cmdWrites [w] ++ rest → step s = .next { s with busy := false }) ∧
    (∀ t, CoreTurn s t → step s = .next { t with busy := false } ∧
      ({ t with busy := false } : State).status = 0x00000000)

/-- Commands after reset and before any load (70_reset_and_hazards.md R242): nothing is loaded in the memories, whatever
R and the status fields hold by then. -/
def Obligations.FirstCommandsAfterReset : Prop :=
  ∀ s : State, s.coef = [] → s.px = [] → s.py = [] →
    (∀ i, exec (.rdc i) s = .next { s.completed with r := 0x00 }) ∧
    (∀ i, exec (.rdpx i) s = .next { s.completed with r := 0x00 }) ∧
    (∀ i, exec (.rdpy i) s = .next { s.completed with r := 0x00 }) ∧
    (∀ d x, exec (.eval d x) s = .next { s.completed with r := 0x00 }) ∧
    (∀ n, operand n s = 1 → exec (.interp n) s = .next { s.completed with r := 0x00 }) ∧
    (∀ n, 2 ≤ (operand n s).toNat → exec (.interp n) s = .next (s.failedWith 0x4 0x00 0x00 0x01))

/-! ### The register window -/

/-- CMD (10_state.md R24): a write is accepted at once when BUSY = 0 and held while BUSY = 1, until the current command
completes; a read returns 0 and has no effect. -/
def Obligations.CmdWritesAreAcceptedOrHeld : Prop :=
  ∀ (s : State) (rest : List HostEvent), s.resetAsserted = false →
    (∀ w, s.agenda = cmdWrites [w] ++ rest →
      (s.busy = false → step s = .next { s with pending := some w, busy := true, agenda := rest,
                                                responses := .writeDone :: s.responses }) ∧
      (s.busy = true → ∃ t, step s = .next t ∧ t.agenda = s.agenda ∧ t.responses = s.responses ∧
        t.busy = false ∧ t.pending = none ∧ ∀ v, s.pending = some v → complete v s = .next t)) ∧
    (s.agenda = regReads [.cmd] ++ rest →
      step s = .next { s with agenda := rest, responses := .data 0x00000000 :: s.responses })

/-- STATUS (10_state.md R25): its fields and their reset values, and that a write is ignored and completes normally. That
State.reset has BUSY = 1 is the model's reading (notes/assumptions/3.md): 70_reset_and_hazards.md R241 lets INIT_LAT
be 0. -/
def Obligations.StatusReadsItsFields : Prop :=
  (State.reset.status = 0x80000000 ∧ ({ State.reset with busy := false } : State).status = 0x00000000) ∧
  ∀ (s : State) (rest : List HostEvent), s.resetAsserted = false →
    (s.agenda = regReads [.status] ++ rest →
      ∃ v : Word, step s = .next { s with agenda := rest, responses := .data v :: s.responses } ∧
        v.extractLsb' 0 8 = s.r ∧ v.extractLsb' 8 4 = s.err ∧ v.getLsbD 12 = s.errSeen ∧
        v.extractLsb' 13 18 = 0 ∧ v.getLsbD 31 = s.busy) ∧
    (∀ w, s.agenda = .access (.write (Config.coreBase + 0x4) 4 w) :: rest →
      step s = .next { s with agenda := rest, responses := .writeDone :: s.responses })

/-- ID (10_state.md R29): the constant, and that a write is ignored. -/
def Obligations.IdReadsTheConstant : Prop :=
  ∀ (s : State) (rest : List HostEvent), s.resetAsserted = false →
    (s.agenda = regReads [.id] ++ rest →
      step s = .next { s with agenda := rest, responses := .data 0x47460100 :: s.responses }) ∧
    (∀ w, s.agenda = .access (.write (Config.coreBase + 0xC) 4 w) :: rest →
      step s = .next { s with agenda := rest, responses := .writeDone :: s.responses })

/-- ERRINFO (10_state.md R30): its fields and their reset value, that a write is ignored, and what every completed
command writes there. -/
def Obligations.ErrInfoReadsItsFields : Prop :=
  State.reset.errInfo = 0x00000000 ∧
  (∀ (s : State) (rest : List HostEvent), s.resetAsserted = false →
    (s.agenda = regReads [.errinfo] ++ rest →
      ∃ v : Word, step s = .next { s with agenda := rest, responses := .data v :: s.responses } ∧
        v.extractLsb' 0 8 = s.errX ∧ v.extractLsb' 8 8 = s.errI ∧ v.extractLsb' 16 8 = s.errJ ∧
        v.extractLsb' 24 8 = 0) ∧
    (∀ w, s.agenda = .access (.write (Config.coreBase + 0x8) 4 w) :: rest →
      step s = .next { s with agenda := rest, responses := .writeDone :: s.responses })) ∧
  (∀ (w : Word) (s t : State), complete w s = .next t →
    (t.err ≠ 0x4 → t.errX = 0x00 ∧ t.errI = 0x00 ∧ t.errJ = 0x00) ∧
    (t.err = 0x4 → ∃ n, decode w = .ok (.interp n) ∧
      FirstDuplicate s.pxAt (operand n s).toNat t.errI.toNat t.errJ.toNat ∧ t.errX = s.pxAt t.errI.toNat))

/-- Only 32-bit accesses at multiples of 4 are accepted; any other access of the window gets a bus error response and
changes no state of CORE (20_memory.md R58). -/
def Obligations.OtherAccessesGetBusErrors : Prop :=
  ∀ (s : State) (rest : List HostEvent) (off width : Nat), s.resetAsserted = false → off < 16 →
    (width ≠ 4 ∨ off % 4 ≠ 0) →
    (s.agenda = .access (.read (Config.coreBase + off) width) :: rest →
      step s = .next { s with agenda := rest, responses := .busError :: s.responses }) ∧
    (∀ w, s.agenda = .access (.write (Config.coreBase + off) width w) :: rest →
      step s = .next { s with agenda := rest, responses := .busError :: s.responses })

/-- While a command is pending, any number of reads return the values from before it was accepted, with BUSY = 1
(10_state.md R31). -/
def Obligations.PendingCommandsShowOldValues : Prop :=
  ∀ (s : State) (w : Word) (gs : List WindowReg) (rest : List HostEvent), s.busy = false → s.resetAsserted = false →
    s.agenda = cmdWrites [w] ++ regReads gs ++ rest →
    runSteps (gs.length + 1) s =
      .next { s with pending := some w, busy := true, agenda := rest,
                     responses := (gs.map fun g => BusResponse.data (match g with
                       | .cmd => 0x00000000
                       | .status => s.status ||| 0x80000000
                       | .errinfo => s.errInfo
                       | .id => 0x47460100)).reverse ++ .writeDone :: s.responses }

/-- Command words written back to back are each held until the one before has completed, and complete in their order,
each on the whole effect of the ones before (20_memory.md R63, 70_reset_and_hazards.md R250). -/
def Obligations.BatchesCompleteInOrder : Prop :=
  ∀ (ws : List Word) (s : State), s.busy = false → s.pending = none → s.resetAsserted = false → s.agenda = [] →
    ∃ t, runCommands ws s = .next t ∧
      runSteps (2 * ws.length) { s with agenda := cmdWrites ws } =
        .next { t with responses := List.replicate ws.length .writeDone ++ s.responses }

/-! ### The commands -/

/-- ADD (40_field_arith.md R120). -/
def Obligations.AddWritesTheXor : Prop :=
  (∀ a b s, exec (.add a b) s = .next { s.completed with r := operand a s ^^^ operand b s }) ∧
  (∀ a b, EncodedAs (.add a b) ⟨0x01, a.selectBit, b.selectBit, 0, a.field, b.field⟩) ∧ IllegalOtherwise 0x01

/-- SUB (40_field_arith.md R121). -/
def Obligations.SubWritesTheXor : Prop :=
  (∀ a b s, exec (.sub a b) s = .next { s.completed with r := operand a s ^^^ operand b s }) ∧
  (∀ a b, EncodedAs (.sub a b) ⟨0x02, a.selectBit, b.selectBit, 0, a.field, b.field⟩) ∧ IllegalOtherwise 0x02

/-- MUL (40_field_arith.md R122), its result as the polynomial product modulo 0x11b (R112). -/
def Obligations.MulWritesTheFieldProduct : Prop :=
  (∀ a b s, exec (.mul a b) s = .next { s.completed with
      r := BitVec.ofNat 8 (polyDivmod (polyMul (operand a s).toNat (operand b s).toNat) 0x11b).2 }) ∧
  (∀ a b, EncodedAs (.mul a b) ⟨0x03, a.selectBit, b.selectBit, 0, a.field, b.field⟩) ∧ IllegalOtherwise 0x03

/-- INV (40_field_arith.md R123): the inverse on success, ZeroHasNoInverse for 0, and nothing else. -/
def Obligations.InvWritesTheInverse : Prop :=
  (∀ a s, operand a s ≠ 0 →
    ∃ v, gfInv (operand a s) = .ok v ∧ gfMul (operand a s) v = 1 ∧
      exec (.inv a) s = .next { s.completed with r := v }) ∧
  (∀ a s, operand a s = 0 → exec (.inv a) s = .next (s.failedWith 0x1 0x00 0x00 0x00)) ∧
  (∀ a, EncodedAs (.inv a) ⟨0x05, a.selectBit, false, 0, a.field, 0⟩) ∧ IllegalOtherwise 0x05

/-- DIV (40_field_arith.md R124): the quotient on success, DivisionByZero when opB = 0 whatever opA is. -/
def Obligations.DivWritesTheQuotient : Prop :=
  (∀ a b s, operand b s ≠ 0 →
    ∃ v, gfInv (operand b s) = .ok v ∧
      exec (.div a b) s = .next { s.completed with r := gfMul (operand a s) v }) ∧
  (∀ a b s, operand b s = 0 → exec (.div a b) s = .next (s.failedWith 0x2 0x00 0x00 0x00)) ∧
  (∀ a b, EncodedAs (.div a b) ⟨0x04, a.selectBit, b.selectBit, 0, a.field, b.field⟩) ∧ IllegalOtherwise 0x04

/-- EVAL (41_polynomial.md R140): COEF[0] at x = 0, and else the fold from the highest coefficient down. -/
def Obligations.EvalWritesTheHornerFold : Prop :=
  (∀ d x s, operand x s = 0 → exec (.eval d x) s = .next { s.completed with r := Memory.read s.coef 0 }) ∧
  (∀ d x s, operand x s ≠ 0 → exec (.eval d x) s = .next { s.completed with
      r := (List.range (d.toNat + 1)).reverse.foldl
        (fun acc k => gfMul acc (operand x s) ^^^ Memory.read s.coef (BitVec.ofNat 8 k)) 0 }) ∧
  (∀ d x, EncodedAs (.eval d x) ⟨0x06, x.selectBit, false, d, x.field, 0⟩) ∧ IllegalOtherwise 0x06

/-- The result of EVAL is the value of the polynomial, as a sum over powers of x (41_polynomial.md R142). -/
def Obligations.EvalWritesThePowerSum : Prop :=
  ∀ d x s, exec (.eval d x) s = .next { s.completed with
    r := xorSum (fun k => gfMul (s.coefAt k) (fieldPow (operand x s) k)) (List.range (d.toNat + 1)) }

/-- INTERP (42_interpolation.md R150, R153): the two failures, with the first duplicate pair, and the sum of the basis
products on success; no other case. -/
def Obligations.InterpWritesTheLagrangeValue : Prop :=
  (∀ n s, (operand n s).toNat = 0 → exec (.interp n) s = .next (s.failedWith 0x5 0x00 0x00 0x00)) ∧
  (∀ n s i j, FirstDuplicate s.pxAt (operand n s).toNat i j →
    exec (.interp n) s = .next (s.failedWith 0x4 (s.pxAt i) (BitVec.ofNat 8 i) (BitVec.ofNat 8 j))) ∧
  (∀ n s, (operand n s).toNat ≠ 0 → DistinctX s.pxAt (operand n s).toNat →
    ∃ q : Nat → Nat → Byte,
      (∀ i j, i < (operand n s).toNat → j < (operand n s).toNat → j ≠ i →
        gfDiv (s.pxAt j) (s.pxAt i ^^^ s.pxAt j) = .ok (q i j)) ∧
      exec (.interp n) s = .next { s.completed with
        r := xorSum (fun i => gfMul (s.pyAt i)
          (fieldProd (q i) ((List.range (operand n s).toNat).filter (fun j => j ≠ i))))
          (List.range (operand n s).toNat) }) ∧
  (∀ (px : Nat → Byte) (n : Nat), DistinctX px n ∨ ∃ i j, FirstDuplicate px n i j) ∧
  (∀ n, EncodedAs (.interp n) ⟨0x07, n.selectBit, false, 0, n.field, 0⟩) ∧ IllegalOtherwise 0x07

/-- INTERP 1 returns PY[0] whatever PX[0] is (42_interpolation.md R151). -/
def Obligations.InterpOnePointWritesItsY : Prop :=
  ∀ n s, operand n s = 1 → exec (.interp n) s = .next { s.completed with r := Memory.read s.py 0 }

/-- A point with x = 0 among distinct x values gives that point's y (42_interpolation.md R154). -/
def Obligations.InterpPointAtZeroWritesItsY : Prop :=
  ∀ n s k, DistinctX s.pxAt (operand n s).toNat → k < (operand n s).toNat → s.pxAt k = 0 →
    exec (.interp n) s = .next { s.completed with r := s.pyAt k }

/-- Correctness of interpolation (42_interpolation.md R155): when the n points have distinct x values and lie on the
polynomial COEF[0..d] with d at most n-1, R = f(0) = COEF[0]. With R144 and R157 this is the round trip of a split and a
combine of one byte. -/
def Obligations.InterpRecoversTheConstantTerm : Prop :=
  ∀ n s (d : Byte), d.toNat < (operand n s).toNat → DistinctX s.pxAt (operand n s).toNat →
    (∀ i, i < (operand n s).toNat →
      exec (.eval d (.lit (s.pxAt i))) s = .next { s.completed with r := s.pyAt i }) →
    exec (.interp n) s = .next { s.completed with r := Memory.read s.coef 0 }

/-- The result of INTERP does not depend on the order of the points; the reported pair does (42_interpolation.md R156). -/
def Obligations.InterpIgnoresTheOrderOfPoints : Prop :=
  (∀ (s t : State) (n m : Src) (σ : Nat → Nat), operand m t = operand n s → operand n s ≠ 0 →
    DistinctX s.pxAt (operand n s).toNat →
    (∀ i, i < (operand n s).toNat →
      σ i < (operand n s).toNat ∧ t.pxAt i = s.pxAt (σ i) ∧ t.pyAt i = s.pyAt (σ i)) →
    (∀ i j, i < (operand n s).toNat → j < (operand n s).toNat → σ i = σ j → i = j) →
    ∃ v, exec (.interp n) s = .next { s.completed with r := v } ∧
      exec (.interp m) t = .next { t.completed with r := v }) ∧
  (∃ (s t s' t' : State) (n : Byte) (σ : Nat → Nat),
    (∀ i, i < n.toNat → σ i < n.toNat ∧ t.pxAt i = s.pxAt (σ i) ∧ t.pyAt i = s.pyAt (σ i)) ∧
    (∀ i j, i < n.toNat → j < n.toNat → σ i = σ j → i = j) ∧
    exec (.interp (.lit n)) s = .next s' ∧ exec (.interp (.lit n)) t = .next t' ∧
    s'.err = 0x4 ∧ t'.err = 0x4 ∧ (s'.errI, s'.errJ) ≠ (t'.errI, t'.errJ))

/-- LDC (43_data_movement.md R170): COEF[i] gets v, and every other entry and all else but the status writes stays. -/
def Obligations.LdcWritesOneCoefficient : Prop :=
  (∀ i v s, ∃ m, exec (.ldc i v) s = .next { s.completed with coef := m } ∧
    (Memory.wf s.coef = true → ∀ k, Memory.read m k = if k = i then operand v s else Memory.read s.coef k)) ∧
  (∀ i v, EncodedAs (.ldc i v) ⟨0x08, false, v.selectBit, i, 0, v.field⟩) ∧ IllegalOtherwise 0x08

/-- LDP (43_data_movement.md R171): PX[i] and PY[i] get x and y, and every other entry and all else but the status writes
stays. -/
def Obligations.LdpWritesOnePoint : Prop :=
  (∀ i x y s, ∃ mx my, exec (.ldp i x y) s = .next { s.completed with px := mx, py := my } ∧
    (Memory.wf s.px = true → ∀ k, Memory.read mx k = if k = i then operand x s else Memory.read s.px k) ∧
    (Memory.wf s.py = true → ∀ k, Memory.read my k = if k = i then operand y s else Memory.read s.py k)) ∧
  (∀ i x y, EncodedAs (.ldp i x y) ⟨0x09, x.selectBit, y.selectBit, i, x.field, y.field⟩) ∧ IllegalOtherwise 0x09

/-- RDC, RDPX and RDPY (43_data_movement.md R172, R173, R174): R gets the entry, 0x00 for one that no command since reset
has written. -/
def Obligations.ReadBackWritesTheEntryToR : Prop :=
  (∀ i s, exec (.rdc i) s = .next { s.completed with r := Memory.read s.coef i }) ∧
  (∀ i s, exec (.rdpx i) s = .next { s.completed with r := Memory.read s.px i }) ∧
  (∀ i s, exec (.rdpy i) s = .next { s.completed with r := Memory.read s.py i }) ∧
  (∀ (ws : List Word) (s t : State) (i : Byte), s.coef = [] → runCommands ws s = .next t →
    (∀ w ∈ ws, ∀ v, decode w ≠ .ok (.ldc i v)) → exec (.rdc i) t = .next { t.completed with r := 0x00 }) ∧
  (∀ (ws : List Word) (s t : State) (i : Byte), s.px = [] → s.py = [] → runCommands ws s = .next t →
    (∀ w ∈ ws, ∀ x y, decode w ≠ .ok (.ldp i x y)) →
    exec (.rdpx i) t = .next { t.completed with r := 0x00 } ∧
      exec (.rdpy i) t = .next { t.completed with r := 0x00 }) ∧
  (∀ i, EncodedAs (.rdc i) ⟨0x0A, false, false, i, 0, 0⟩) ∧ IllegalOtherwise 0x0A ∧
  (∀ i, EncodedAs (.rdpx i) ⟨0x0B, false, false, i, 0, 0⟩) ∧ IllegalOtherwise 0x0B ∧
  (∀ i, EncodedAs (.rdpy i) ⟨0x0C, false, false, i, 0, 0⟩) ∧ IllegalOtherwise 0x0C

/-- NOP (44_control.md R190): the status writes and nothing else; any other word with OP 0x00 is illegal. -/
def Obligations.NopWritesOnlyTheStatus : Prop :=
  (∀ s, exec .nop s = .next s.completed) ∧ (∀ w, decode w = .ok .nop ↔ w = 0x00000000) ∧
  (∀ w : Word, w.extractLsb' 26 6 = 0x00 → w ≠ 0x00000000 → legal w = false) ∧ IllegalOtherwise 0x00

/-- CLRERR (44_control.md R192): ERRSEEN <- 0 and the status writes; any other word with OP 0x0D is illegal. -/
def Obligations.ClrerrClearsErrSeen : Prop :=
  (∀ s, exec .clrerr s = .next { s.completed with errSeen := false }) ∧
  (∀ w, decode w = .ok .clrerr ↔ w = 0x34000000) ∧
  (∀ w : Word, w.extractLsb' 26 6 = 0x0D → w ≠ 0x34000000 → legal w = false) ∧ IllegalOtherwise 0x0D

/-! ### The field -/

/-- degree (40_field_arith.md R113). -/
def Obligations.DegreeIsTheHighestSetBit : Prop :=
  degree 0 = -1 ∧
  (∀ p : Nat, p ≠ 0 → ∃ k : Nat, degree p = k ∧ p.testBit k = true ∧ ∀ j, k < j → p.testBit j = false) ∧
  (∀ p : Nat, p < 2 ^ 16 → -1 ≤ degree p ∧ degree p ≤ 15)

/-- poly_mul (40_field_arith.md R114): the xor of the shifted factor over the set bits of the other, and its degree. -/
def Obligations.PolyMulIsTheCarryLessProduct : Prop :=
  (∀ a b n : Nat, (polyMul a b).testBit n =
    ((List.range (n + 1)).map fun k => b.testBit k && a.testBit (n - k)).foldr xor false) ∧
  (∀ a b : Nat, a ≠ 0 → b ≠ 0 → degree (polyMul a b) = degree a + degree b) ∧
  (∀ a b : Nat, a = 0 ∨ b = 0 → polyMul a b = 0)

/-- poly_divmod (40_field_arith.md R115): quotient and remainder, and that they are the only ones. -/
def Obligations.PolyDivmodIsLongDivision : Prop :=
  ∀ a b : Nat, b ≠ 0 →
    (a = polyMul (polyDivmod a b).1 b ^^^ (polyDivmod a b).2 ∧ degree (polyDivmod a b).2 < degree b) ∧
    (∀ q r : Nat, a = polyMul q b ^^^ r → degree r < degree b → (q, r) = polyDivmod a b)

/-- The two forms of gf_mul agree (40_field_arith.md R112). -/
def Obligations.GfMulIsThePolynomialProductModulo : Prop :=
  (∀ a b : Byte, (gfMul a b).toNat = (polyDivmod (polyMul a.toNat b.toNat) 0x11b).2) ∧
  (∀ a : Byte, gfMul a 0 = 0) ∧ (∀ b : Byte, gfMul 0 b = 0) ∧ (∀ b : Byte, gfMul 1 b = b)

/-- The inverse exists, is unique, and PolynomialNotInvertible is never raised (40_field_arith.md R117). -/
def Obligations.InverseIsUnique : Prop :=
  ∀ a : Byte, a ≠ 0 → ∃ v, gfInv a = .ok v ∧ gfMul a v = 1 ∧ ∀ u, gfMul a u = 1 → u = v

/-- The laws of addition (40_field_arith.md R131), as functions and for ADD followed by ADD. -/
def Obligations.AdditionLaws : Prop :=
  (∀ a b : Byte, gfAdd (gfAdd a b) b = a ∧ gfAdd a b = gfAdd b a ∧ gfAdd a 0 = a ∧ gfAdd a a = 0) ∧
  (∀ a b c : Byte, gfAdd (gfAdd a b) c = gfAdd a (gfAdd b c)) ∧
  (∀ (a b : Src) (s t : State), exec (.add a b) s = .next t →
    exec (.add .r (.lit (operand b s))) t = .next { t with r := operand a s })

/-- The laws of multiplication (40_field_arith.md R132): the nonzero elements are a group of order 255, and
multiplication distributes over addition. -/
def Obligations.MultiplicationLaws : Prop :=
  (∀ a : Byte, a ≠ 0 → ∃ v, gfInv a = .ok v ∧ gfMul a v = 1 ∧ v ≠ 0) ∧
  (∀ a b : Byte, gfMul a b = gfMul b a) ∧
  (∀ a b c : Byte, gfMul (gfMul a b) c = gfMul a (gfMul b c)) ∧
  (∀ a : Byte, gfMul 1 a = a ∧ gfMul 0 a = 0) ∧
  (∀ a b c : Byte, gfMul a (gfAdd b c) = gfAdd (gfMul a b) (gfMul a c)) ∧
  (∀ a b : Byte, a ≠ 0 → b ≠ 0 → gfMul a b ≠ 0)

/-- The laws of division (40_field_arith.md R133). -/
def Obligations.DivisionLaws : Prop :=
  (∀ a b : Byte, b ≠ 0 → gfDiv (gfMul a b) b = .ok a) ∧
  (∀ a b : Byte, b ≠ 0 → ∃ q, gfDiv a b = .ok q ∧ gfMul q b = a) ∧
  (∀ a : Byte, gfDiv a 1 = .ok a) ∧ (∀ b : Byte, b ≠ 0 → gfDiv 0 b = .ok 0) ∧
  (∀ a : Byte, a ≠ 0 → gfDiv a a = .ok 1) ∧ (∀ a : Byte, gfDiv a 0 = .error .divisionByZero)

/-! ### Rules of the whole machine -/

/-- Every step keeps the invariant of CORE's states. -/
def Obligations.StepKeepsTheInvariant : Prop :=
  ∀ s t : State, s.Inv → step s = .next t → t.Inv

/-- The invariant holds right after reset. -/
def Obligations.ResetMeetsTheInvariant : Prop := State.reset.Inv

/-- Which commands can fail, and how: every command completes, and code 3 is reached by no input
(60_exceptions.md R203). -/
def Obligations.CommandsFailOnlyAsListed : Prop :=
  ∀ (i : Instr) (s : State), ∃ t, exec i s = .next t ∧
    match i with
    | .inv _ => t.err = 0x0 ∨ t.err = 0x1
    | .div _ _ => t.err = 0x0 ∨ t.err = 0x2
    | .interp _ => t.err = 0x0 ∨ t.err = 0x4 ∨ t.err = 0x5
    | .nop | .add _ _ | .sub _ _ | .mul _ _ | .eval _ _ | .ldc _ _ | .ldp _ _ _ | .rdc _ | .rdpx _ | .rdpy _
    | .clrerr => t.err = 0x0

/-- The order of the errors (60_exceptions.md R205): IllegalCommand first, then the command's own, in its order. -/
def Obligations.OneErrorInTheOrderOfPriority : Prop :=
  (∀ (w : Word) (s : State), legal w = false → complete w s = .next (s.failedWith 0x6 0x00 0x00 0x00)) ∧
  (∀ a s, operand a s = 0 → ∃ t, exec (.inv a) s = .next t ∧ t.err = 0x1) ∧
  (∀ a b s, operand b s = 0 → ∃ t, exec (.div a b) s = .next t ∧ t.err = 0x2) ∧
  (∀ n s, operand n s = 0 → ∃ t, exec (.interp n) s = .next t ∧ t.err = 0x5) ∧
  (∀ n s i j, operand n s ≠ 0 → FirstDuplicate s.pxAt (operand n s).toNat i j →
    ∃ t, exec (.interp n) s = .next t ∧ t.err = 0x4 ∧ t.errI.toNat = i ∧ t.errJ.toNat = j) ∧
  (∀ n s t, exec (.interp n) s = .next t → t.err ≠ 0x2)

/-- A failed command writes only ERR, ERRSEEN and ERRINFO, whatever they held before (60_exceptions.md R210, R213). -/
def Obligations.FailuresWriteOnlyTheStatus : Prop :=
  ∀ (w : Word) (s t : State), complete w s = .next t → t.err ≠ 0x0 →
    t = s.failedWith t.err t.errX t.errI t.errJ ∧ (t.err ≠ 0x4 → t.errX = 0x00 ∧ t.errI = 0x00 ∧ t.errJ = 0x00)

/-- Nothing but the completion of the pending command, or reset, changes R, ERR, ERRSEEN, ERRINFO or a memory
(10_state.md R26, R35). -/
def Obligations.OnlyCompletionsAndResetChangeCore : Prop :=
  ∀ s t : State, step s = .next t →
    (t.r = s.r ∧ t.err = s.err ∧ t.errSeen = s.errSeen ∧ t.errX = s.errX ∧ t.errI = s.errI ∧ t.errJ = s.errJ ∧
      t.coef = s.coef ∧ t.px = s.px ∧ t.py = s.py) ∨
    (∃ w u, s.pending = some w ∧ s.resetAsserted = false ∧ (u = s ∨ ∃ rest, u = { s with agenda := rest }) ∧
      complete w u = .next t ∧ t.busy = false ∧ t.pending = none) ∨
    (∃ rest, s.agenda = .assertReset :: rest)

/-- ERRSEEN (10_state.md R28): a failing completion sets it; only CLRERR and reset clear it. -/
def Obligations.ErrSeenIsSticky : Prop :=
  (∀ (w : Word) (s t : State), complete w s = .next t → t.err ≠ 0x0 → t.errSeen = true) ∧
  (∀ (w : Word) (s t : State), complete w s = .next t → t.err = 0x0 →
    t.errSeen = if decode w = .ok .clrerr then false else s.errSeen) ∧
  (∀ s t : State, step s = .next t → s.errSeen = true → t.errSeen = false →
    (∃ w, s.pending = some w ∧ decode w = .ok .clrerr) ∨ ∃ rest, s.agenda = .assertReset :: rest)

/-- Which steps change R (10_state.md R22) and the entries of the memories (20_memory.md R52, R53). -/
def Obligations.RegistersAndEntriesChangeOnlyAsListed : Prop :=
  ∀ s t : State, s.Inv → step s = .next t → (∀ rest, s.agenda ≠ .assertReset :: rest) →
    (t.r ≠ s.r → ∃ w i, s.pending = some w ∧ decode w = .ok i ∧ t.err = 0x0 ∧
      i.opcode ∈ [Opcode.add, .sub, .mul, .div, .inv, .eval, .interp, .rdc, .rdpx, .rdpy]) ∧
    (∀ k, Memory.read t.coef k ≠ Memory.read s.coef k → ∃ w v, s.pending = some w ∧ decode w = .ok (.ldc k v)) ∧
    (∀ k, Memory.read t.px k ≠ Memory.read s.px k ∨ Memory.read t.py k ≠ Memory.read s.py k →
      ∃ w x y, s.pending = some w ∧ decode w = .ok (.ldp k x y))

/-- No command reads ERR, ERRSEEN or ERRINFO (10_state.md R32, 60_exceptions.md R212): a command on a state that differs
in them only gives the same result, but for the ERRSEEN it does not write. -/
def Obligations.CommandsIgnoreTheStatusFields : Prop :=
  ∀ (i : Instr) (s t : State) (e : BitVec 4) (b : Bool) (x y z : Byte), exec i s = .next t →
    ∃ b', exec i { s with err := e, errSeen := b, errX := x, errI := y, errJ := z } = .next { t with errSeen := b' } ∧
      (b = s.errSeen → b' = t.errSeen)

/-- Two memories in canonical form that read the same are the same data (notes/assumptions/17.md: the form is the
model's). -/
def Obligations.CanonicalMemoriesAreEqual : Prop :=
  ∀ m m' : Memory, Memory.wf m = true → Memory.wf m' = true → (∀ k, Memory.read m k = Memory.read m' k) → m = m'

/-! ### The assembler -/

/-- Disassembling a legal word gives a line that assembles to it (30_encoding.md R89, R90). -/
def Obligations.AssembleInvertsDisassemble : Prop :=
  ∀ w : Word, legal w = true → Asm.assemble (Asm.disassemble w) = .ok w

/-- The syntax of each command, operands in the order F2, F1, F0, and its word; the assembler never emits an illegal word,
and rejects a literal above 255, r where a literal must stand, and a wrong operand count (30_encoding.md R89). -/
def Obligations.AssemblerFollowsTheSyntax : Prop :=
  SyntaxGives "NOP" .nop [] .nop 0x00000000 ∧
  (∀ a b, SyntaxGives "ADD" .add [a, b] (.add a b) (syntaxWord 0x01 0 a b)) ∧
  (∀ a b, SyntaxGives "SUB" .sub [a, b] (.sub a b) (syntaxWord 0x02 0 a b)) ∧
  (∀ a b, SyntaxGives "MUL" .mul [a, b] (.mul a b) (syntaxWord 0x03 0 a b)) ∧
  (∀ a b, SyntaxGives "DIV" .div [a, b] (.div a b) (syntaxWord 0x04 0 a b)) ∧
  (∀ a, SyntaxGives "INV" .inv [a] (.inv a) (syntaxWord 0x05 0 a (.lit 0))) ∧
  (∀ d x, SyntaxGives "EVAL" .eval [.lit d, x] (.eval d x) (syntaxWord 0x06 d x (.lit 0))) ∧
  (∀ n, SyntaxGives "INTERP" .interp [n] (.interp n) (syntaxWord 0x07 0 n (.lit 0))) ∧
  (∀ i v, SyntaxGives "LDC" .ldc [.lit i, v] (.ldc i v) (syntaxWord 0x08 i (.lit 0) v)) ∧
  (∀ i x y, SyntaxGives "LDP" .ldp [.lit i, x, y] (.ldp i x y) (syntaxWord 0x09 i x y)) ∧
  (∀ i, SyntaxGives "RDC" .rdc [.lit i] (.rdc i) (syntaxWord 0x0A i (.lit 0) (.lit 0))) ∧
  (∀ i, SyntaxGives "RDPX" .rdpx [.lit i] (.rdpx i) (syntaxWord 0x0B i (.lit 0) (.lit 0))) ∧
  (∀ i, SyntaxGives "RDPY" .rdpy [.lit i] (.rdpy i) (syntaxWord 0x0C i (.lit 0) (.lit 0))) ∧
  SyntaxGives "CLRERR" .clrerr [] .clrerr 0x34000000 ∧
  (∀ (text : List Char) (w : Word), Asm.assemble text = .ok w → legal w = true) ∧
  (∀ l : AsmLine, l.operands.length ≠ l.op.shape.length → ∃ e, Asm.instrOf l = .error e) ∧
  (∀ (l : AsmLine) (v : Nat), AsmOperand.lit v ∈ l.operands → 255 < v → ∃ e, Asm.instrOf l = .error e) ∧
  (∀ (l : AsmLine) (k : Nat), l.op.shape[k]? = some .literal → l.operands[k]? = some .r →
    ∃ e, Asm.instrOf l = .error e)

/-- The pseudo-instructions and their effects (30_encoding.md R91). -/
def Obligations.PseudoInstructionsExpand : Prop :=
  ∀ s : State,
    (∀ v : Nat, v ≤ 255 → ∃ i, Asm.instrOf ⟨.mov, [.lit v]⟩ = .ok i ∧ i = .add (.lit (BitVec.ofNat 8 v)) (.lit 0) ∧
      exec i s = .next { s.completed with r := BitVec.ofNat 8 v }) ∧
    (∃ i, Asm.instrOf ⟨.clrr, []⟩ = .ok i ∧ i = .add (.lit 0) (.lit 0) ∧
      exec i s = .next { s.completed with r := 0x00 }) ∧
    (∀ a : AsmOperand, OperandKind.value.check a = none →
      (∃ i, Asm.instrOf ⟨.neg, [a]⟩ = .ok i ∧ i = .sub (.lit 0) (Asm.srcOf a) ∧
        exec i s = .next { s.completed with r := operand (Asm.srcOf a) s }) ∧
      (∃ i, Asm.instrOf ⟨.sqr, [a]⟩ = .ok i ∧ i = .mul (Asm.srcOf a) (Asm.srcOf a) ∧
        exec i s = .next { s.completed with r := gfMul (operand (Asm.srcOf a) s) (operand (Asm.srcOf a) s) })) ∧
    (∀ k : Nat, k ≤ 255 → ∃ i, Asm.instrOf ⟨.ldcr, [.lit k]⟩ = .ok i ∧ i = .ldc (BitVec.ofNat 8 k) .r ∧
      ∃ m, exec i s = .next { s.completed with coef := m } ∧
        (Memory.wf s.coef = true → Memory.read m (BitVec.ofNat 8 k) = s.r))
end

