-- ==== Sys2Proof/Laws/Decode.lean ====
section
/-! SUPPORT. The fields of a word and the word of fields are inverse to each other, and the opcode map is one to one
(spec/30_encoding.md R80, R82). -/

namespace Sys2Proof

/-- Bit i of the word of fields, field by field (R80). -/
theorem CW.getLsbD_toWord (c : CW) (i : Nat) (hi : i < 32) :
    c.toWord.getLsbD i =
      if i < 8 then c.f0.getLsbD i else if i < 16 then c.f1.getLsbD (i - 8) else if i < 24 then c.f2.getLsbD (i - 16)
      else if i = 24 then c.sb else if i = 25 then c.sa else c.op.getLsbD (i - 26) := by
  obtain ⟨op, sa, sb, f2, f1, f0⟩ := c
  interval_cases i <;> simp [CW.toWord]

theorem CW.ofWord_toWord (c : CW) : CW.ofWord c.toWord = c := by
  have h := c.getLsbD_toWord
  have hf : ∀ k n : Nat, k + n ≤ 32 → ∀ x : BitVec n,
      (∀ i, i < n → c.toWord.getLsbD (k + i) = x.getLsbD i) → c.toWord.extractLsb' k n = x := by
    intro k n _ x hx
    ext i hi
    rw [BitVec.getElem_extractLsb', hx i hi, BitVec.getLsbD_eq_getElem]
  obtain ⟨op, sa, sb, f2, f1, f0⟩ := c
  simp only [CW.ofWord, CW.mk.injEq]
  refine ⟨hf 26 6 (by decide) op ?_, by rw [h 25 (by decide)]; rfl, by rw [h 24 (by decide)]; rfl,
    hf 16 8 (by decide) f2 ?_, hf 8 8 (by decide) f1 ?_, hf 0 8 (by decide) f0 ?_⟩ <;>
  · intro i hi
    rw [h _ (by omega)]
    interval_cases i <;> rfl

theorem CW.toWord_ofWord (w : Word) : (CW.ofWord w).toWord = w := by
  apply BitVec.eq_of_getLsbD_eq
  intro i hi
  rw [CW.getLsbD_toWord _ i hi]
  interval_cases i <;> simp [CW.ofWord]

theorem opcodeOf_code (o : Opcode) : opcodeOf o.code = some o := by
  cases o <;> rfl

theorem code_of_opcodeOf {op : BitVec 6} {o : Opcode} (h : opcodeOf op = some o) : o.code = op := by
  revert o
  revert op
  decide

theorem decode_toWord (c : CW) : decode c.toWord = c.decode := by
  rw [decode, CW.ofWord_toWord]

/-- What a raw command decodes to, said once: its opcode is assigned, no clause of R85 fails, and the command is built
from its fields. -/
theorem CW.decode_eq_ok {c : CW} {i : Instr} (h : c.decode = .ok i) :
    ∃ o, opcodeOf c.op = some o ∧ c.violation o.uses = none ∧ i = o.build c := by
  unfold CW.decode at h
  split at h
  · cases h
  · rename_i o ho
    split at h
    · cases h
    · rename_i hv
      exact ⟨o, ho, hv, (Except.ok.inj h).symm⟩

theorem wordOfLanes_lanes (w : Word) : wordOfLanes (lane 0 w) (lane 1 w) (lane 2 w) (lane 3 w) = w := by
  apply BitVec.eq_of_getLsbD_eq
  intro i hi
  simp only [wordOfLanes, lane, BitVec.getLsbD_append, BitVec.getLsbD_extractLsb']
  interval_cases i <;> simp

theorem decodeLanes_lanesOf (w : Word) : decodeLanes (lanesOf w) = decode w :=
  congrArg decode (wordOfLanes_lanes w)

end Sys2Proof
end

