-- ==== Sys2Proof/Laws/State.lean ====
section
/-! SUPPORT. What each update of the state does to each field: one lemma per field per update, true by rfl, so that
no proof unfolds a record update. -/

namespace Sys2Proof.Machine.State

variable (s : State)

@[simp] theorem recordSuccess_r : (s.recordSuccess).r = s.r := rfl
@[simp] theorem recordSuccess_err : (s.recordSuccess).err = 0 := rfl
@[simp] theorem recordSuccess_errSeen : (s.recordSuccess).errSeen = s.errSeen := rfl
@[simp] theorem recordSuccess_errX : (s.recordSuccess).errX = 0 := rfl
@[simp] theorem recordSuccess_errI : (s.recordSuccess).errI = 0 := rfl
@[simp] theorem recordSuccess_errJ : (s.recordSuccess).errJ = 0 := rfl
@[simp] theorem recordSuccess_coef : (s.recordSuccess).coef = s.coef := rfl
@[simp] theorem recordSuccess_px : (s.recordSuccess).px = s.px := rfl
@[simp] theorem recordSuccess_py : (s.recordSuccess).py = s.py := rfl
@[simp] theorem recordSuccess_pending : (s.recordSuccess).pending = s.pending := rfl
@[simp] theorem recordSuccess_busy : (s.recordSuccess).busy = s.busy := rfl
@[simp] theorem recordSuccess_resetAsserted : (s.recordSuccess).resetAsserted = s.resetAsserted := rfl
@[simp] theorem recordSuccess_agenda : (s.recordSuccess).agenda = s.agenda := rfl
@[simp] theorem recordSuccess_responses : (s.recordSuccess).responses = s.responses := rfl

@[simp] theorem recordFailure_r (e : ErrKind) : (s.recordFailure e).r = s.r := rfl
@[simp] theorem recordFailure_err (e : ErrKind) : (s.recordFailure e).err = e.code := rfl
@[simp] theorem recordFailure_errSeen (e : ErrKind) : (s.recordFailure e).errSeen = true := rfl
@[simp] theorem recordFailure_errX (e : ErrKind) : (s.recordFailure e).errX = e.infoX := rfl
@[simp] theorem recordFailure_errI (e : ErrKind) : (s.recordFailure e).errI = e.infoI := rfl
@[simp] theorem recordFailure_errJ (e : ErrKind) : (s.recordFailure e).errJ = e.infoJ := rfl
@[simp] theorem recordFailure_coef (e : ErrKind) : (s.recordFailure e).coef = s.coef := rfl
@[simp] theorem recordFailure_px (e : ErrKind) : (s.recordFailure e).px = s.px := rfl
@[simp] theorem recordFailure_py (e : ErrKind) : (s.recordFailure e).py = s.py := rfl
@[simp] theorem recordFailure_pending (e : ErrKind) : (s.recordFailure e).pending = s.pending := rfl
@[simp] theorem recordFailure_busy (e : ErrKind) : (s.recordFailure e).busy = s.busy := rfl
@[simp] theorem recordFailure_resetAsserted (e : ErrKind) : (s.recordFailure e).resetAsserted = s.resetAsserted := rfl
@[simp] theorem recordFailure_agenda (e : ErrKind) : (s.recordFailure e).agenda = s.agenda := rfl
@[simp] theorem recordFailure_responses (e : ErrKind) : (s.recordFailure e).responses = s.responses := rfl

@[simp] theorem clearErrSeen_r : (s.clearErrSeen).r = s.r := rfl
@[simp] theorem clearErrSeen_err : (s.clearErrSeen).err = s.err := rfl
@[simp] theorem clearErrSeen_errSeen : (s.clearErrSeen).errSeen = false := rfl
@[simp] theorem clearErrSeen_errX : (s.clearErrSeen).errX = s.errX := rfl
@[simp] theorem clearErrSeen_errI : (s.clearErrSeen).errI = s.errI := rfl
@[simp] theorem clearErrSeen_errJ : (s.clearErrSeen).errJ = s.errJ := rfl
@[simp] theorem clearErrSeen_coef : (s.clearErrSeen).coef = s.coef := rfl
@[simp] theorem clearErrSeen_px : (s.clearErrSeen).px = s.px := rfl
@[simp] theorem clearErrSeen_py : (s.clearErrSeen).py = s.py := rfl
@[simp] theorem clearErrSeen_pending : (s.clearErrSeen).pending = s.pending := rfl
@[simp] theorem clearErrSeen_busy : (s.clearErrSeen).busy = s.busy := rfl
@[simp] theorem clearErrSeen_resetAsserted : (s.clearErrSeen).resetAsserted = s.resetAsserted := rfl
@[simp] theorem clearErrSeen_agenda : (s.clearErrSeen).agenda = s.agenda := rfl
@[simp] theorem clearErrSeen_responses : (s.clearErrSeen).responses = s.responses := rfl

@[simp] theorem writeR_r (v : Byte) : (s.writeR v).r = v := rfl
@[simp] theorem writeR_err (v : Byte) : (s.writeR v).err = s.err := rfl
@[simp] theorem writeR_errSeen (v : Byte) : (s.writeR v).errSeen = s.errSeen := rfl
@[simp] theorem writeR_errX (v : Byte) : (s.writeR v).errX = s.errX := rfl
@[simp] theorem writeR_errI (v : Byte) : (s.writeR v).errI = s.errI := rfl
@[simp] theorem writeR_errJ (v : Byte) : (s.writeR v).errJ = s.errJ := rfl
@[simp] theorem writeR_coef (v : Byte) : (s.writeR v).coef = s.coef := rfl
@[simp] theorem writeR_px (v : Byte) : (s.writeR v).px = s.px := rfl
@[simp] theorem writeR_py (v : Byte) : (s.writeR v).py = s.py := rfl
@[simp] theorem writeR_pending (v : Byte) : (s.writeR v).pending = s.pending := rfl
@[simp] theorem writeR_busy (v : Byte) : (s.writeR v).busy = s.busy := rfl
@[simp] theorem writeR_resetAsserted (v : Byte) : (s.writeR v).resetAsserted = s.resetAsserted := rfl
@[simp] theorem writeR_agenda (v : Byte) : (s.writeR v).agenda = s.agenda := rfl
@[simp] theorem writeR_responses (v : Byte) : (s.writeR v).responses = s.responses := rfl

@[simp] theorem writeCoef_r (i v : Byte) : (s.writeCoef i v).r = s.r := rfl
@[simp] theorem writeCoef_err (i v : Byte) : (s.writeCoef i v).err = s.err := rfl
@[simp] theorem writeCoef_errSeen (i v : Byte) : (s.writeCoef i v).errSeen = s.errSeen := rfl
@[simp] theorem writeCoef_errX (i v : Byte) : (s.writeCoef i v).errX = s.errX := rfl
@[simp] theorem writeCoef_errI (i v : Byte) : (s.writeCoef i v).errI = s.errI := rfl
@[simp] theorem writeCoef_errJ (i v : Byte) : (s.writeCoef i v).errJ = s.errJ := rfl
@[simp] theorem writeCoef_coef (i v : Byte) : (s.writeCoef i v).coef = Memory.write s.coef i v := rfl
@[simp] theorem writeCoef_px (i v : Byte) : (s.writeCoef i v).px = s.px := rfl
@[simp] theorem writeCoef_py (i v : Byte) : (s.writeCoef i v).py = s.py := rfl
@[simp] theorem writeCoef_pending (i v : Byte) : (s.writeCoef i v).pending = s.pending := rfl
@[simp] theorem writeCoef_busy (i v : Byte) : (s.writeCoef i v).busy = s.busy := rfl
@[simp] theorem writeCoef_resetAsserted (i v : Byte) : (s.writeCoef i v).resetAsserted = s.resetAsserted := rfl
@[simp] theorem writeCoef_agenda (i v : Byte) : (s.writeCoef i v).agenda = s.agenda := rfl
@[simp] theorem writeCoef_responses (i v : Byte) : (s.writeCoef i v).responses = s.responses := rfl

@[simp] theorem writePoint_r (i x y : Byte) : (s.writePoint i x y).r = s.r := rfl
@[simp] theorem writePoint_err (i x y : Byte) : (s.writePoint i x y).err = s.err := rfl
@[simp] theorem writePoint_errSeen (i x y : Byte) : (s.writePoint i x y).errSeen = s.errSeen := rfl
@[simp] theorem writePoint_errX (i x y : Byte) : (s.writePoint i x y).errX = s.errX := rfl
@[simp] theorem writePoint_errI (i x y : Byte) : (s.writePoint i x y).errI = s.errI := rfl
@[simp] theorem writePoint_errJ (i x y : Byte) : (s.writePoint i x y).errJ = s.errJ := rfl
@[simp] theorem writePoint_coef (i x y : Byte) : (s.writePoint i x y).coef = s.coef := rfl
@[simp] theorem writePoint_px (i x y : Byte) : (s.writePoint i x y).px = Memory.write s.px i x := rfl
@[simp] theorem writePoint_py (i x y : Byte) : (s.writePoint i x y).py = Memory.write s.py i y := rfl
@[simp] theorem writePoint_pending (i x y : Byte) : (s.writePoint i x y).pending = s.pending := rfl
@[simp] theorem writePoint_busy (i x y : Byte) : (s.writePoint i x y).busy = s.busy := rfl
@[simp] theorem writePoint_resetAsserted (i x y : Byte) : (s.writePoint i x y).resetAsserted = s.resetAsserted := rfl
@[simp] theorem writePoint_agenda (i x y : Byte) : (s.writePoint i x y).agenda = s.agenda := rfl
@[simp] theorem writePoint_responses (i x y : Byte) : (s.writePoint i x y).responses = s.responses := rfl

@[simp] theorem retire_r : (s.retire).r = s.r := rfl
@[simp] theorem retire_err : (s.retire).err = s.err := rfl
@[simp] theorem retire_errSeen : (s.retire).errSeen = s.errSeen := rfl
@[simp] theorem retire_errX : (s.retire).errX = s.errX := rfl
@[simp] theorem retire_errI : (s.retire).errI = s.errI := rfl
@[simp] theorem retire_errJ : (s.retire).errJ = s.errJ := rfl
@[simp] theorem retire_coef : (s.retire).coef = s.coef := rfl
@[simp] theorem retire_px : (s.retire).px = s.px := rfl
@[simp] theorem retire_py : (s.retire).py = s.py := rfl
@[simp] theorem retire_pending : (s.retire).pending = none := rfl
@[simp] theorem retire_busy : (s.retire).busy = false := rfl
@[simp] theorem retire_resetAsserted : (s.retire).resetAsserted = s.resetAsserted := rfl
@[simp] theorem retire_agenda : (s.retire).agenda = s.agenda := rfl
@[simp] theorem retire_responses : (s.retire).responses = s.responses := rfl

@[simp] theorem accept_r (w : Word) : (s.accept w).r = s.r := rfl
@[simp] theorem accept_err (w : Word) : (s.accept w).err = s.err := rfl
@[simp] theorem accept_errSeen (w : Word) : (s.accept w).errSeen = s.errSeen := rfl
@[simp] theorem accept_errX (w : Word) : (s.accept w).errX = s.errX := rfl
@[simp] theorem accept_errI (w : Word) : (s.accept w).errI = s.errI := rfl
@[simp] theorem accept_errJ (w : Word) : (s.accept w).errJ = s.errJ := rfl
@[simp] theorem accept_coef (w : Word) : (s.accept w).coef = s.coef := rfl
@[simp] theorem accept_px (w : Word) : (s.accept w).px = s.px := rfl
@[simp] theorem accept_py (w : Word) : (s.accept w).py = s.py := rfl
@[simp] theorem accept_pending (w : Word) : (s.accept w).pending = some w := rfl
@[simp] theorem accept_busy (w : Word) : (s.accept w).busy = true := rfl
@[simp] theorem accept_resetAsserted (w : Word) : (s.accept w).resetAsserted = s.resetAsserted := rfl
@[simp] theorem accept_agenda (w : Word) : (s.accept w).agenda = s.agenda := rfl
@[simp] theorem accept_responses (w : Word) : (s.accept w).responses = s.responses := rfl

@[simp] theorem respond_r (b : BusResponse) : (s.respond b).r = s.r := rfl
@[simp] theorem respond_err (b : BusResponse) : (s.respond b).err = s.err := rfl
@[simp] theorem respond_errSeen (b : BusResponse) : (s.respond b).errSeen = s.errSeen := rfl
@[simp] theorem respond_errX (b : BusResponse) : (s.respond b).errX = s.errX := rfl
@[simp] theorem respond_errI (b : BusResponse) : (s.respond b).errI = s.errI := rfl
@[simp] theorem respond_errJ (b : BusResponse) : (s.respond b).errJ = s.errJ := rfl
@[simp] theorem respond_coef (b : BusResponse) : (s.respond b).coef = s.coef := rfl
@[simp] theorem respond_px (b : BusResponse) : (s.respond b).px = s.px := rfl
@[simp] theorem respond_py (b : BusResponse) : (s.respond b).py = s.py := rfl
@[simp] theorem respond_pending (b : BusResponse) : (s.respond b).pending = s.pending := rfl
@[simp] theorem respond_busy (b : BusResponse) : (s.respond b).busy = s.busy := rfl
@[simp] theorem respond_resetAsserted (b : BusResponse) : (s.respond b).resetAsserted = s.resetAsserted := rfl
@[simp] theorem respond_agenda (b : BusResponse) : (s.respond b).agenda = s.agenda := rfl
@[simp] theorem respond_responses (b : BusResponse) : (s.respond b).responses = b :: s.responses := rfl

@[simp] theorem advance_r (rest : List HostEvent) : (s.advance rest).r = s.r := rfl
@[simp] theorem advance_err (rest : List HostEvent) : (s.advance rest).err = s.err := rfl
@[simp] theorem advance_errSeen (rest : List HostEvent) : (s.advance rest).errSeen = s.errSeen := rfl
@[simp] theorem advance_errX (rest : List HostEvent) : (s.advance rest).errX = s.errX := rfl
@[simp] theorem advance_errI (rest : List HostEvent) : (s.advance rest).errI = s.errI := rfl
@[simp] theorem advance_errJ (rest : List HostEvent) : (s.advance rest).errJ = s.errJ := rfl
@[simp] theorem advance_coef (rest : List HostEvent) : (s.advance rest).coef = s.coef := rfl
@[simp] theorem advance_px (rest : List HostEvent) : (s.advance rest).px = s.px := rfl
@[simp] theorem advance_py (rest : List HostEvent) : (s.advance rest).py = s.py := rfl
@[simp] theorem advance_pending (rest : List HostEvent) : (s.advance rest).pending = s.pending := rfl
@[simp] theorem advance_busy (rest : List HostEvent) : (s.advance rest).busy = s.busy := rfl
@[simp] theorem advance_resetAsserted (rest : List HostEvent) : (s.advance rest).resetAsserted = s.resetAsserted := rfl
@[simp] theorem advance_agenda (rest : List HostEvent) : (s.advance rest).agenda = rest := rfl
@[simp] theorem advance_responses (rest : List HostEvent) : (s.advance rest).responses = s.responses := rfl

@[simp] theorem leaveReset_r : (s.leaveReset).r = s.r := rfl
@[simp] theorem leaveReset_err : (s.leaveReset).err = s.err := rfl
@[simp] theorem leaveReset_errSeen : (s.leaveReset).errSeen = s.errSeen := rfl
@[simp] theorem leaveReset_errX : (s.leaveReset).errX = s.errX := rfl
@[simp] theorem leaveReset_errI : (s.leaveReset).errI = s.errI := rfl
@[simp] theorem leaveReset_errJ : (s.leaveReset).errJ = s.errJ := rfl
@[simp] theorem leaveReset_coef : (s.leaveReset).coef = s.coef := rfl
@[simp] theorem leaveReset_px : (s.leaveReset).px = s.px := rfl
@[simp] theorem leaveReset_py : (s.leaveReset).py = s.py := rfl
@[simp] theorem leaveReset_pending : (s.leaveReset).pending = s.pending := rfl
@[simp] theorem leaveReset_busy : (s.leaveReset).busy = s.busy := rfl
@[simp] theorem leaveReset_resetAsserted : (s.leaveReset).resetAsserted = false := rfl
@[simp] theorem leaveReset_agenda : (s.leaveReset).agenda = s.agenda := rfl
@[simp] theorem leaveReset_responses : (s.leaveReset).responses = s.responses := rfl

@[simp] theorem becomeReady_r : (s.becomeReady).r = s.r := rfl
@[simp] theorem becomeReady_err : (s.becomeReady).err = s.err := rfl
@[simp] theorem becomeReady_errSeen : (s.becomeReady).errSeen = s.errSeen := rfl
@[simp] theorem becomeReady_errX : (s.becomeReady).errX = s.errX := rfl
@[simp] theorem becomeReady_errI : (s.becomeReady).errI = s.errI := rfl
@[simp] theorem becomeReady_errJ : (s.becomeReady).errJ = s.errJ := rfl
@[simp] theorem becomeReady_coef : (s.becomeReady).coef = s.coef := rfl
@[simp] theorem becomeReady_px : (s.becomeReady).px = s.px := rfl
@[simp] theorem becomeReady_py : (s.becomeReady).py = s.py := rfl
@[simp] theorem becomeReady_pending : (s.becomeReady).pending = s.pending := rfl
@[simp] theorem becomeReady_busy : (s.becomeReady).busy = false := rfl
@[simp] theorem becomeReady_resetAsserted : (s.becomeReady).resetAsserted = s.resetAsserted := rfl
@[simp] theorem becomeReady_agenda : (s.becomeReady).agenda = s.agenda := rfl
@[simp] theorem becomeReady_responses : (s.becomeReady).responses = s.responses := rfl

@[simp] theorem enterReset_r : (s.enterReset).r = 0 := rfl
@[simp] theorem enterReset_err : (s.enterReset).err = 0 := rfl
@[simp] theorem enterReset_errSeen : (s.enterReset).errSeen = false := rfl
@[simp] theorem enterReset_errX : (s.enterReset).errX = 0 := rfl
@[simp] theorem enterReset_errI : (s.enterReset).errI = 0 := rfl
@[simp] theorem enterReset_errJ : (s.enterReset).errJ = 0 := rfl
@[simp] theorem enterReset_coef : (s.enterReset).coef = [] := rfl
@[simp] theorem enterReset_px : (s.enterReset).px = [] := rfl
@[simp] theorem enterReset_py : (s.enterReset).py = [] := rfl
@[simp] theorem enterReset_pending : (s.enterReset).pending = none := rfl
@[simp] theorem enterReset_busy : (s.enterReset).busy = true := rfl
@[simp] theorem enterReset_resetAsserted : (s.enterReset).resetAsserted = true := rfl
@[simp] theorem enterReset_agenda : (s.enterReset).agenda = s.agenda := rfl
@[simp] theorem enterReset_responses : (s.enterReset).responses = s.responses := rfl

@[simp] theorem completed_r : (s.completed).r = s.r := rfl
@[simp] theorem completed_err : (s.completed).err = 0 := rfl
@[simp] theorem completed_errSeen : (s.completed).errSeen = s.errSeen := rfl
@[simp] theorem completed_errX : (s.completed).errX = 0 := rfl
@[simp] theorem completed_errI : (s.completed).errI = 0 := rfl
@[simp] theorem completed_errJ : (s.completed).errJ = 0 := rfl
@[simp] theorem completed_coef : (s.completed).coef = s.coef := rfl
@[simp] theorem completed_px : (s.completed).px = s.px := rfl
@[simp] theorem completed_py : (s.completed).py = s.py := rfl
@[simp] theorem completed_pending : (s.completed).pending = none := rfl
@[simp] theorem completed_busy : (s.completed).busy = false := rfl
@[simp] theorem completed_resetAsserted : (s.completed).resetAsserted = s.resetAsserted := rfl
@[simp] theorem completed_agenda : (s.completed).agenda = s.agenda := rfl
@[simp] theorem completed_responses : (s.completed).responses = s.responses := rfl

@[simp] theorem failedWith_r (c : BitVec 4) (x i j : Byte) : (s.failedWith c x i j).r = s.r := rfl
@[simp] theorem failedWith_err (c : BitVec 4) (x i j : Byte) : (s.failedWith c x i j).err = c := rfl
@[simp] theorem failedWith_errSeen (c : BitVec 4) (x i j : Byte) : (s.failedWith c x i j).errSeen = true := rfl
@[simp] theorem failedWith_errX (c : BitVec 4) (x i j : Byte) : (s.failedWith c x i j).errX = x := rfl
@[simp] theorem failedWith_errI (c : BitVec 4) (x i j : Byte) : (s.failedWith c x i j).errI = i := rfl
@[simp] theorem failedWith_errJ (c : BitVec 4) (x i j : Byte) : (s.failedWith c x i j).errJ = j := rfl
@[simp] theorem failedWith_coef (c : BitVec 4) (x i j : Byte) : (s.failedWith c x i j).coef = s.coef := rfl
@[simp] theorem failedWith_px (c : BitVec 4) (x i j : Byte) : (s.failedWith c x i j).px = s.px := rfl
@[simp] theorem failedWith_py (c : BitVec 4) (x i j : Byte) : (s.failedWith c x i j).py = s.py := rfl
@[simp] theorem failedWith_pending (c : BitVec 4) (x i j : Byte) : (s.failedWith c x i j).pending = none := rfl
@[simp] theorem failedWith_busy (c : BitVec 4) (x i j : Byte) : (s.failedWith c x i j).busy = false := rfl
@[simp] theorem failedWith_resetAsserted (c : BitVec 4) (x i j : Byte) : (s.failedWith c x i j).resetAsserted = s.resetAsserted := rfl
@[simp] theorem failedWith_agenda (c : BitVec 4) (x i j : Byte) : (s.failedWith c x i j).agenda = s.agenda := rfl
@[simp] theorem failedWith_responses (c : BitVec 4) (x i j : Byte) : (s.failedWith c x i j).responses = s.responses := rfl

end Sys2Proof.Machine.State
end

