-- ==== Sys2Proof/Laws/Memory.lean ====
section
/-! SUPPORT. The laws of the memories: a read after a write (spec/20_memory.md R52, R53), and the canonical form, which
every write keeps. -/

namespace Sys2Proof.Machine.Memory

theorem wfFrom_cons {lo k : Nat} {b : Byte} {m : Memory} :
    wfFrom lo ((k, b) :: m) = true ↔ lo ≤ k ∧ k < 256 ∧ b ≠ 0 ∧ wfFrom (k + 1) m = true := by
  simp only [wfFrom, Bool.and_eq_true, decide_eq_true_eq, bne_iff_ne, and_assoc]
  exact Iff.rfl

theorem wfFrom_mono {lo lo' : Nat} (h : lo' ≤ lo) : ∀ {m : Memory}, wfFrom lo m = true → wfFrom lo' m = true
  | [], _ => rfl
  | (_, _) :: _, hm => by
    rw [wfFrom_cons] at hm ⊢
    exact ⟨h.trans hm.1, hm.2⟩

theorem wf_nil : wf [] = true := rfl

theorem read_nil (i : Byte) : read [] i = 0 := rfl

/-- An entry below every listed index reads as unwritten. -/
theorem read_of_lt {i : Byte} : ∀ {m : Memory} {lo : Nat}, wfFrom lo m = true → i.toNat < lo → read m i = 0
  | [], _, _, _ => rfl
  | (k, _) :: m, lo, hm, hi => by
    rw [wfFrom_cons] at hm
    have hk : ¬ k = i.toNat := by omega
    rw [read, if_neg hk]
    exact read_of_lt hm.2.2.2 (by omega)

theorem read_cell_append {i : Byte} (v : Byte) {m : Memory} (hm : wfFrom (i.toNat + 1) m = true) (j : Byte) :
    read (cell i.toNat v ++ m) j = if j = i then v else read m j := by
  unfold cell
  split
  · rename_i hv
    rw [List.nil_append]
    split
    · rename_i hj
      rw [hv, hj]
      exact read_of_lt hm (Nat.lt_succ_self _)
    · rfl
  · rw [List.singleton_append, read]
    by_cases hj : j = i
    · simp [hj]
    · have : ¬ i.toNat = j.toNat := fun h => hj (BitVec.eq_of_toNat_eq h).symm
      simp [hj, this]

/-- A read after a write: the value written at its index, and what was there at every other. -/
theorem read_write {i : Byte} (v : Byte) (j : Byte) : ∀ {m : Memory} {lo : Nat}, wfFrom lo m = true →
    read (write m i v) j = if j = i then v else read m j
  | [], _, _ => by
    have h := read_cell_append (i := i) v (m := []) rfl j
    rwa [List.append_nil] at h
  | (k, b) :: m, lo, hm => by
    rw [wfFrom_cons] at hm
    rw [write]
    split
    · exact read_cell_append v (wfFrom_cons.2 ⟨by omega, hm.2.1, hm.2.2.1, hm.2.2.2⟩) j
    · split
      · rename_i hk
        rw [read_cell_append v (hk ▸ hm.2.2.2) j, read]
        by_cases hj : j = i
        · rw [if_pos hj, if_pos hj]
        · have : ¬ k = j.toNat := fun h => hj (BitVec.eq_of_toNat_eq (by omega))
          rw [if_neg hj, if_neg hj, if_neg this]
      · rename_i h1 h2
        rw [read, read, read_write v j hm.2.2.2]
        by_cases hj : j = i
        · have : ¬ k = j.toNat := by rw [hj]; omega
          simp only [if_neg this, if_pos hj]
        · simp only [if_neg hj]

theorem read_write_same {m : Memory} (h : wf m = true) (i v : Byte) : read (write m i v) i = v := by
  rw [read_write v i h, if_pos rfl]

theorem read_write_other {m : Memory} (h : wf m = true) {i j : Byte} (v : Byte) (hj : j ≠ i) :
    read (write m i v) j = read m j := by
  rw [read_write v j h, if_neg hj]

theorem wfFrom_cell_append {lo : Nat} {i : Byte} (v : Byte) {m : Memory} (hlo : lo ≤ i.toNat)
    (hm : wfFrom (i.toNat + 1) m = true) : wfFrom lo (cell i.toNat v ++ m) = true := by
  unfold cell
  split
  · exact wfFrom_mono (by omega) hm
  · rename_i hv
    exact wfFrom_cons.2 ⟨hlo, i.isLt, hv, hm⟩

theorem wfFrom_write {i : Byte} (v : Byte) : ∀ {m : Memory} {lo : Nat}, wfFrom lo m = true → lo ≤ i.toNat →
    wfFrom lo (write m i v) = true
  | [], _, _, hi => by
    have h := wfFrom_cell_append (i := i) v (m := []) hi rfl
    rwa [List.append_nil] at h
  | (k, b) :: m, lo, hm, hi => by
    rw [wfFrom_cons] at hm
    rw [write]
    split
    · exact wfFrom_cell_append v hi (wfFrom_cons.2 ⟨by omega, hm.2.1, hm.2.2.1, hm.2.2.2⟩)
    · split
      · rename_i hk
        exact wfFrom_cell_append v hi (hk ▸ hm.2.2.2)
      · exact wfFrom_cons.2 ⟨hm.1, hm.2.1, hm.2.2.1, wfFrom_write v hm.2.2.2 (by omega)⟩

/-- A write keeps the canonical form. -/
theorem wf_write {m : Memory} (h : wf m = true) (i v : Byte) : wf (write m i v) = true :=
  wfFrom_write v h (Nat.zero_le _)

end Sys2Proof.Machine.Memory
end

