-- ==== Sys2Proof/Laws/Ops.lean ====
section
/-! SUPPORT. What each shared operation can answer, said once: succeed, raise, finishR and illegalCommand of
Machine/Ops.lean. -/

namespace Sys2Proof.Machine

theorem succeed_eq (s : State) : succeed s = .next s.completed := rfl

theorem raise_eq {e : ErrKind} (s : State) (he : e ≠ .polynomialNotInvertible) :
    raise e s = .next (s.failedWith e.code e.infoX e.infoI e.infoJ) := by
  cases e <;> first | rfl | exact absurd rfl he

theorem raise_polynomialNotInvertible (s : State) :
    raise .polynomialNotInvertible s = .fault .polynomialNotInvertible := rfl

theorem illegalCommand_eq (s : State) : illegalCommand s = .next (s.failedWith 0x6 0 0 0) := rfl

theorem finishR_ok (v : Byte) (s : State) : finishR (.ok v) s = .next ((s.writeR v).completed) := rfl

theorem finishR_error (e : ErrKind) (s : State) : finishR (.error e) s = raise e s := rfl

/-- If a failure answers a next state, that state is the failed one. -/
theorem raise_next {e : ErrKind} {s t : State} (h : raise e s = .next t) :
    e ≠ .polynomialNotInvertible ∧ t = s.failedWith e.code e.infoX e.infoI e.infoJ := by
  have he : e ≠ .polynomialNotInvertible := by rintro rfl; cases h
  rw [raise_eq s he] at h
  exact ⟨he, (Host.Outcome.next.inj h).symm⟩

/-- If a command with a result for R answers a next state, it succeeded with that result or failed. -/
theorem finishR_next {v : Except ErrKind Byte} {s t : State} (h : finishR v s = .next t) :
    (∃ b, v = .ok b ∧ t = (s.writeR b).completed) ∨
      (∃ e, v = .error e ∧ e ≠ .polynomialNotInvertible ∧ t = s.failedWith e.code e.infoX e.infoI e.infoJ) := by
  cases v with
  | ok b => exact .inl ⟨b, rfl, (Host.Outcome.next.inj h).symm⟩
  | error e => exact .inr ⟨e, rfl, raise_next h⟩

/-- The ways a completed command changes the state: the writes of a success, or a failure. -/
inductive Effect (s : State) : State → Prop where
  /-- NOP -/
  | plain : Effect s s.completed
  /-- CLRERR -/
  | clear : Effect s s.clearErrSeen.completed
  /-- a result for R -/
  | result (v : Byte) : Effect s (s.writeR v).completed
  /-- LDC -/
  | coef (i v : Byte) : Effect s (s.writeCoef i v).completed
  /-- LDP -/
  | point (i x y : Byte) : Effect s (s.writePoint i x y).completed
  /-- a failure -/
  | failed (e : ErrKind) (he : e ≠ .polynomialNotInvertible) :
      Effect s (s.failedWith e.code e.infoX e.infoI e.infoJ)

theorem Effect.of_finishR {v : Except ErrKind Byte} {s t : State} (h : finishR v s = .next t) : Effect s t := by
  obtain ⟨b, -, rfl⟩ | ⟨e, -, he, rfl⟩ := finishR_next h
  · exact .result b
  · exact .failed e he

theorem Effect.of_succeed {s u t : State} (h : succeed u = .next t) (hu : Effect s u.completed) : Effect s t := by
  rw [succeed_eq] at h
  exact Host.Outcome.next.inj h ▸ hu

/-- Everything a command's meaning can do when it answers a next state. -/
theorem exec_effect {i : Instr} {s t : State} (h : exec i s = .next t) : Effect s t := by
  cases i with
  | nop => exact .of_succeed h .plain
  | clrerr => exact .of_succeed h .clear
  | ldc i v => exact .of_succeed h (.coef i _)
  | ldp i x y => exact .of_succeed h (.point i _ _)
  | _ =>
    simp only [exec, execAdd, execSub, execMul, execDiv, execInv, execEval, execInterp, execRdc, execRdpx,
      execRdpy] at h
    exact .of_finishR h

/-- Everything the completion of a pending word can do when it answers a next state. -/
theorem complete_effect {w : Word} {s t : State} (h : complete w s = .next t) : Effect s t := by
  unfold complete at h
  split at h
  · exact exec_effect h
  · exact Host.Outcome.next.inj h ▸ .failed .illegalCommand (by decide)

end Sys2Proof.Machine
end

