-- ==== Sys2Proof/Laws/PerInstr.lean ====
section
/-! SUPPORT. Said of every instruction, one lemma per constructor: the fields its encoder writes have its row's opcode
and break no clause of spec/30_encoding.md R85, so the encoder never emits an illegal word (R89). -/

namespace Sys2Proof.Laws.EncodedFieldsAreLegal

/-- The fields of i have its row's OP (R82) and break no clause of R85. -/
def Statement (i : Instr) : Prop :=
  i.fields.op = i.opcode.code ∧ i.fields.violation i.opcode.uses = none

theorem nop : Statement .nop := ⟨rfl, rfl⟩

theorem add (a b : Src) : Statement (.add a b) :=
  ⟨rfl, by cases a <;> cases b <;> rfl⟩

theorem sub (a b : Src) : Statement (.sub a b) :=
  ⟨rfl, by cases a <;> cases b <;> rfl⟩

theorem mul (a b : Src) : Statement (.mul a b) :=
  ⟨rfl, by cases a <;> cases b <;> rfl⟩

theorem div (a b : Src) : Statement (.div a b) :=
  ⟨rfl, by cases a <;> cases b <;> rfl⟩

theorem inv (a : Src) : Statement (.inv a) :=
  ⟨rfl, by cases a <;> rfl⟩

theorem eval (d : Byte) (x : Src) : Statement (.eval d x) :=
  ⟨rfl, by cases x <;> rfl⟩

theorem interp (n : Src) : Statement (.interp n) :=
  ⟨rfl, by cases n <;> rfl⟩

theorem ldc (i : Byte) (v : Src) : Statement (.ldc i v) :=
  ⟨rfl, by cases v <;> rfl⟩

theorem ldp (i : Byte) (x y : Src) : Statement (.ldp i x y) :=
  ⟨rfl, by cases x <;> cases y <;> rfl⟩

theorem rdc (i : Byte) : Statement (.rdc i) := ⟨rfl, rfl⟩

theorem rdpx (i : Byte) : Statement (.rdpx i) := ⟨rfl, rfl⟩

theorem rdpy (i : Byte) : Statement (.rdpy i) := ⟨rfl, rfl⟩

theorem clrerr : Statement .clrerr := ⟨rfl, rfl⟩

end Sys2Proof.Laws.EncodedFieldsAreLegal
end

