-- ==== Sys2Proof/Laws/Step.lean ====
section
/-! SUPPORT. Everything a step can do, said once. -/

namespace Sys2Proof.Machine

/-- What CORE's own move can do when it answers a next state: nothing while held in reset, the completion of the pending
word, or the end of initialisation (an idle CORE stays as it is). -/
theorem coreMove_next {s t : State} (h : coreMove s = .next t) :
    (s.resetAsserted = true ∧ t = s) ∨
      (s.resetAsserted = false ∧ ∃ w, s.pending = some w ∧ complete w s = .next t) ∨
      (s.resetAsserted = false ∧ s.pending = none ∧ t = s.becomeReady) := by
  unfold coreMove at h
  split at h
  · rename_i hr
    exact .inl ⟨hr, (Host.Outcome.next.inj h).symm⟩
  · rename_i hr
    have hr' : s.resetAsserted = false := by simpa using hr
    split at h
    · rename_i w hw
      exact .inr (.inl ⟨hr', w, hw, h⟩)
    · rename_i hw
      exact .inr (.inr ⟨hr', hw, (Host.Outcome.next.inj h).symm⟩)

/-- What a host access does when it answers a next state: a response and nothing else, the acceptance of a command, or,
where it is a CMD write held by BUSY, CORE's move with the access still to come. -/
theorem busAccess_next {a : Access} {rest : List HostEvent} {s t : State} (h : busAccess a rest s = .next t) :
    s.resetAsserted = false ∧
      ((∃ b, t = (s.respond b).advance rest) ∨
        (∃ addr width w, a = .write addr width w ∧ targetOf addr width = .reg .cmd ∧ s.busy = false ∧
          t = ((s.accept w).respond .writeDone).advance rest) ∨
        (∃ addr width w, a = .write addr width w ∧ targetOf addr width = .reg .cmd ∧ s.busy = true ∧
          coreMove s = .next t)) := by
  unfold busAccess at h
  split at h
  · cases h
  · rename_i hr
    refine ⟨by simpa using hr, ?_⟩
    split at h
    · cases h
    · exact .inl ⟨_, (Host.Outcome.next.inj h).symm⟩
    · rename_i g hg
      cases a with
      | read addr width => exact .inl ⟨_, (Host.Outcome.next.inj h).symm⟩
      | write addr width w =>
        cases g with
        | cmd =>
          simp only [accessReg, writeCmd] at h
          split at h
          · rename_i hb
            exact .inr (.inr ⟨addr, width, w, rfl, hg, hb, h⟩)
          · rename_i hb
            exact .inr (.inl ⟨addr, width, w, rfl, hg, by simpa using hb, (Host.Outcome.next.inj h).symm⟩)
        | _ => exact .inl ⟨_, (Host.Outcome.next.inj h).symm⟩

/-- The next states of a step: CORE's move (the agenda empty, a wait, or a held CMD write), a response, an acceptance,
or a change of the reset input. -/
inductive StepEffect (s : State) : State → Prop where
  /-- CORE moves, on s or on s with the wait done -/
  | core (u t : State) (hu : u = s ∨ ∃ rest, s.agenda = .wait :: rest ∧ u = s.advance rest)
      (h : coreMove u = .next t) : StepEffect s t
  /-- the bus answers, and nothing else happens -/
  | answered (a : Access) (rest : List HostEvent) (b : BusResponse) (ha : s.agenda = .access a :: rest)
      (hr : s.resetAsserted = false) : StepEffect s ((s.respond b).advance rest)
  /-- a command is accepted -/
  | accepted (addr width : Nat) (w : Word) (rest : List HostEvent)
      (ha : s.agenda = .access (.write addr width w) :: rest) (ht : targetOf addr width = .reg .cmd)
      (hr : s.resetAsserted = false) (hb : s.busy = false) :
      StepEffect s (((s.accept w).respond .writeDone).advance rest)
  /-- reset is asserted -/
  | reset (rest : List HostEvent) (ha : s.agenda = .assertReset :: rest) : StepEffect s (s.enterReset.advance rest)
  /-- reset is released -/
  | release (rest : List HostEvent) (ha : s.agenda = .releaseReset :: rest) : StepEffect s (s.leaveReset.advance rest)

/-- Everything a step can do when it answers a next state. -/
theorem step_effect {s t : State} (h : step s = .next t) : StepEffect s t := by
  unfold step at h
  split at h
  · exact .core s t (.inl rfl) h
  · rename_i e rest ha
    cases e with
    | access a =>
      obtain ⟨hr, ⟨b, rfl⟩ | ⟨addr, width, w, rfl, ht, hb, rfl⟩ | ⟨addr, width, w, rfl, ht, hb, hm⟩⟩ :=
        busAccess_next h
      · exact .answered a rest b ha hr
      · exact .accepted addr width w rest ha ht hr hb
      · exact .core s t (.inl rfl) hm
    | wait => exact .core (s.advance rest) t (.inr ⟨rest, ha, rfl⟩) h
    | assertReset => exact Host.Outcome.next.inj h ▸ .reset rest ha
    | releaseReset => exact Host.Outcome.next.inj h ▸ .release rest ha

theorem runSteps_succ {s t : State} (h : step s = .next t) (k : Nat) : runSteps (k + 1) s = runSteps k t := by
  rw [runSteps, h]

/-- An aligned 32-bit access at an offset of the window reaches the register there. -/
theorem targetOf_window {off : Nat} (h : off < 16) (width : Nat) :
    targetOf (Config.coreBase + off) width = windowTarget off width := by
  unfold targetOf
  rw [if_pos ⟨Nat.le_add_right _ _, Nat.add_lt_add_left h _⟩, Nat.add_sub_cancel_left]

theorem targetOf_reg (g : WindowReg) : targetOf (Config.coreBase + regOffset g) 4 = .reg g := by
  cases g <;> exact targetOf_window (by decide) 4

end Sys2Proof.Machine
end

