-- ==== Sys2Proof/Tests/Slice0.lean ====
section
/-! SUPPORT. The model's own tests: expected results are the spec's (95_test_vectors.md, or the rule named), and one
witness for the hypotheses of each statement that has any. -/

namespace Sys2Proof.Tests

open Sys2Proof.Machine

/-- CORE after its initialisation (70_reset_and_hazards.md R241). -/
def ready : State := { State.reset with busy := false }

/-- The word w is pending and it is CORE's turn. -/
def running (w : Word) (s : State) : State := { s with pending := some w, busy := true, agenda := [] }

/-- The state after one step on the pending word w. -/
def after (w : Word) (s : State) : Option State := stateAfter (step (running w s))

/-- Points (02, 76), (04, 22), (05, 99) in entries 0 to 2 (95_test_vectors.md P3). -/
def shares : State :=
  { ready with px := [(0, 0x02), (1, 0x04), (2, 0x05)], py := [(0, 0x76), (1, 0x22), (2, 0x99)] }

/-- COEF[0..2] = 53, a7, 1c (95_test_vectors.md C1), and the shares on it. -/
def poly : State := { shares with coef := [(0, 0x53), (1, 0xa7), (2, 0x1c)] }

/-- Points (07, 01), (09, 02), (07, 03) and R = 5a (95_test_vectors.md P4). -/
def twins : State :=
  { ready with r := 0x5a, px := [(0, 0x07), (1, 0x09), (2, 0x07)], py := [(0, 0x01), (1, 0x02), (2, 0x03)] }

/-! ### WellFormed: a line each check refuses (30_encoding.md R89; 95_test_vectors.md 2.9) -/

theorem test_check_accepts : AsmLine.check ⟨.core .eval, [.lit 2, .r]⟩ = none := by decide
theorem test_check_registerNotAllowed :
    AsmLine.check ⟨.core .eval, [.r, .lit 3]⟩ = some .registerNotAllowed := by decide
theorem test_check_literalTooLarge :
    AsmLine.check ⟨.core .add, [.lit 256, .lit 0]⟩ = some .literalTooLarge := by decide
theorem test_check_indexTooLarge :
    AsmLine.check ⟨.core .ldc, [.lit 0x100, .lit 1]⟩ = some .literalTooLarge := by decide
theorem test_check_tooFewOperands : AsmLine.check ⟨.core .mul, [.r]⟩ = some .wrongOperandCount := by decide
theorem test_check_tooManyOperands : AsmLine.check ⟨.core .nop, [.r]⟩ = some .wrongOperandCount := by decide

/-! ### Decoding: words written out bit by bit from R80, fields OP, SA, SB, F2, F1, F0 (30_encoding.md R82) -/

theorem test_decode_nop : decode 0b000000_0_0_00000000_00000000_00000000#32 = .ok .nop := by rfl
theorem test_decode_add :
    decode 0b000001_0_0_00000000_01010111_10000011#32 = .ok (.add (.lit 0x57) (.lit 0x83)) := by rfl
theorem test_decode_sub : decode 0b000010_1_0_00000000_00000000_10110101#32 = .ok (.sub .r (.lit 0xb5)) := by rfl
theorem test_decode_mul : decode 0b000011_1_1_00000000_00000000_00000000#32 = .ok (.mul .r .r) := by rfl
theorem test_decode_div : decode 0b000100_0_1_00000000_00000111_00000000#32 = .ok (.div (.lit 7) .r) := by rfl
theorem test_decode_inv : decode 0b000101_0_0_00000000_01010011_00000000#32 = .ok (.inv (.lit 0x53)) := by rfl
theorem test_decode_eval : decode 0b000110_1_0_00000010_00000000_00000000#32 = .ok (.eval 2 .r) := by rfl
theorem test_decode_interp : decode 0b000111_0_0_00000000_00000011_00000000#32 = .ok (.interp (.lit 3)) := by rfl
theorem test_decode_ldc : decode 0b001000_0_0_00000001_00000000_10100111#32 = .ok (.ldc 1 (.lit 0xa7)) := by rfl
theorem test_decode_ldp : decode 0b001001_0_1_00000010_00000011_00000000#32 = .ok (.ldp 2 (.lit 3) .r) := by rfl
theorem test_decode_rdc : decode 0b001010_0_0_11001000_00000000_00000000#32 = .ok (.rdc 200) := by rfl
theorem test_decode_rdpx : decode 0b001011_0_0_00000010_00000000_00000000#32 = .ok (.rdpx 2) := by rfl
theorem test_decode_rdpy : decode 0b001100_0_0_11111111_00000000_00000000#32 = .ok (.rdpy 255) := by rfl
theorem test_decode_clrerr : decode 0b001101_0_0_00000000_00000000_00000000#32 = .ok .clrerr := by rfl

/-- One illegal word for each clause of R85 (95_test_vectors.md 2.8 and 2.9). -/
theorem test_decode_illegal :
    decode 0x38000000 = .error .reservedOpcode ∧ decode 0x04010000 = .error .unusedF2 ∧
      decode 0x20010100 = .error .unusedF1 ∧ decode 0x00000001 = .error .unusedF0 ∧
      decode 0x2A010000 = .error .unusedSA ∧ decode 0x0700FF00 = .error .f1UnderSA ∧
      decode 0x15000000 = .error .unusedSB ∧ decode 0x05000001 = .error .f0UnderSB ∧
      decodeLanes [0x00, 0x00] = .error .notOneWord := by
  refine ⟨?_, ?_, ?_, ?_, ?_, ?_, ?_, ?_, ?_⟩ <;> rfl

/-! ### The field functions (95_test_vectors.md 2.2, 2.3; 40_field_arith.md R118) -/

theorem test_gfMul_standardPair : gfMul 0x57 0x83 = 0xc1 := by decide
theorem test_gfMul_allBits : gfMul 0xff 0xff = 0x13 := by decide
theorem test_gfInv_53 : gfInv 0x53 = .ok 0xca := by decide
theorem test_gfInv_ff : gfInv 0xff = .ok 0x1c := by decide
theorem test_gfDiv_zeroByZero : gfDiv 0 0 = .error .divisionByZero := by decide
theorem test_polyDivmod_trace : polyDivmod 0x11b 0x53 = (0x5, 0x4) := by decide

/-! ### One step per command (95_test_vectors.md; STATUS is the spec's) -/

theorem test_add : (after 0x04005783 ready).map State.status = some 0x000000D4 := by decide
theorem test_add_sameRegister : (after 0x07000000 { ready with r := 0x5a }).map State.status = some 0 := by decide
theorem test_sub_register : (after 0x0A0000B5 { ready with r := 0xb5 }).map State.status = some 0 := by decide
theorem test_mul : (after 0x0C005783 ready).map State.status = some 0x000000C1 := by decide
theorem test_mul_square : (after 0x0F000000 { ready with r := 0x53 }).map State.status = some 0xB5 := by decide
theorem test_div : (after 0x1000C183 ready).map State.status = some 0x00000057 := by decide
theorem test_div_zeroByZero : (after 0x10000000 ready).map State.status = some 0x00001200 := by decide
theorem test_inv : (after 0x16000000 { ready with r := 0xad }).map State.status = some 0x000000E7 := by decide
theorem test_inv_zero : (after 0x14000000 { ready with r := 0x5a }).map State.status = some 0x0000115A := by decide
theorem test_eval : (after 0x18020300 poly).map State.status = some 0x000000CD := by decide
theorem test_eval_atZero : (after 0x18020000 poly).map State.status = some 0x00000053 := by decide
theorem test_interp : (after 0x1C000300 shares).map State.status = some 0x00000053 := by decide
theorem test_interp_underThreshold : (after 0x1C000200 shares).map State.status = some 0x000000B3 := by decide
theorem test_interp_duplicate :
    (after 0x1C000300 twins).map (fun t => (t.status, t.errInfo)) = some (0x0000145A, 0x00020007) := by decide
theorem test_interp_empty : (after 0x1C000000 twins).map State.status = some 0x0000155A := by decide
theorem test_ldc : (after 0x200100A7 ready).map State.coef = some [(1, 0xa7)] := by decide
theorem test_ldc_zeroUnlists : (after 0x20010000 poly).map State.coef = some [(0, 0x53), (2, 0x1c)] := by decide
theorem test_ldp_bothFields :
    (after 0x27FF0000 { ready with r := 0x9c }).map (fun t => (t.px, t.py, t.r)) =
      some ([(255, 0x9c)], [(255, 0x9c)], 0x9c) := by decide
theorem test_rdc : (after 0x28010000 poly).map State.status = some 0x000000A7 := by decide
theorem test_rdpx : (after 0x2C020000 shares).map State.status = some 0x00000005 := by decide
theorem test_rdpy : (after 0x30020000 shares).map State.status = some 0x00000099 := by decide
theorem test_nop_keepsErrSeen :
    (after 0x00000000 { ready with r := 0x5a, err := 6, errSeen := true }).map State.status = some 0x0000105A := by
  decide
theorem test_clrerr :
    (after 0x34000000 { ready with r := 0x5a, err := 6, errSeen := true }).map State.status = some 0x0000005A := by
  decide
theorem test_illegal_status :
    (after 0x04010000 twins).map (fun t => (t.status, t.errInfo)) = some (0x0000165A, 0) := by decide
theorem test_illegal_changesNoMemory :
    (after 0x04010000 twins).map (fun t => (t.px, t.py)) = some (twins.px, twins.py) := by decide

/-! ### The register window (95_test_vectors.md 2.10) -/

/-- The step on the one access a. -/
def afterAccess (a : Access) (s : State) : Host.Outcome State Fault Refusal := step { s with agenda := [.access a] }

theorem test_bus_readId :
    afterAccess (.read (Config.coreBase + 0xC) 4) ready = .next { ready with responses := [.data 0x47460100] } := by
  have h : targetOf (Config.coreBase + 0xC) 4 = .reg .id := targetOf_reg .id
  simp only [afterAccess, step, hostEvent, busAccess, Access.target, h]
  rfl

theorem test_bus_readStatusDuringInitialisation :
    afterAccess (.read (Config.coreBase + 0x4) 4) State.reset =
      .next { State.reset with responses := [.data 0x80000000] } := by
  have h : targetOf (Config.coreBase + 0x4) 4 = .reg .status := targetOf_reg .status
  simp only [afterAccess, step, hostEvent, busAccess, Access.target, h]
  rfl

theorem test_bus_byteWriteIsBusError :
    afterAccess (.write (Config.coreBase + 0) 1 0) ready = .next { ready with responses := [.busError] } := by
  have h : targetOf (Config.coreBase + 0) 1 = .busError := targetOf_window (by decide) 1
  simp only [afterAccess, step, hostEvent, busAccess, Access.target, h]
  rfl

theorem test_bus_misalignedReadIsBusError :
    afterAccess (.read (Config.coreBase + 2) 4) ready = .next { ready with responses := [.busError] } := by
  have h : targetOf (Config.coreBase + 2) 4 = .busError := targetOf_window (by decide) 4
  simp only [afterAccess, step, hostEvent, busAccess, Access.target, h]
  rfl

theorem test_bus_acceptsCommand :
    afterAccess (.write (Config.coreBase + 0) 4 0x0C005783) ready =
      .next { ready with pending := some 0x0C005783, busy := true, responses := [.writeDone] } := by
  have h : targetOf (Config.coreBase + 0) 4 = .reg .cmd := targetOf_reg .cmd
  simp only [afterAccess, step, hostEvent, busAccess, Access.target, h]
  rfl

theorem test_reset_initialisationEnds : stateAfter (step State.reset) = some ready := by decide
theorem test_fetchWord_afterReset :
    (stateAfter (step (State.reset.withFetchWord 32 0x0C005783))).map State.status = some 0x000000C1 := by decide

/-! ### The assembler (95_test_vectors.md 2.9; 30_encoding.md R90) -/

theorem test_assemble_register : Asm.assemble "LDP 255, r, r".toList = .ok 0x27FF0000 := by decide
theorem test_assemble_comment : Asm.assemble "mul r,0x13 ; x".toList = .ok 0x0E000013 := by decide
theorem test_assemble_pseudo : Asm.assemble "LDCR 5".toList = .ok 0x21050000 := by decide
theorem test_assemble_degreeRegister : Asm.assemble "EVAL r, 3".toList = .error .registerNotAllowed := by decide
theorem test_disassemble_expansion : Asm.disassemble 0x04005A00 = "ADD 0x5a, 0x00".toList := by decide
theorem test_disassemble_illegal : Asm.disassemble 0xFC000000 = ".word 0xfc000000".toList := by decide

/-! ### Witnesses: for each statement with hypotheses, values that meet them -/

theorem reset_atResetValues : State.reset.AtResetValues := ⟨rfl, rfl, rfl, rfl, rfl, rfl, rfl, rfl, rfl⟩

theorem distinctX_of_bounded {px : Nat → Byte} {n : Nat} (h : ∀ i < n, ∀ j < n, px i = px j → i = j) :
    DistinctX px n := fun i j hi hj => h i hi j hj

theorem twins_firstDuplicate : FirstDuplicate twins.pxAt 3 0 2 :=
  ⟨by decide, by decide, by decide, fun _ _ h => absurd h (Nat.not_lt_zero _),
    fun j' h h0 => by
      have : j' = 1 := by omega
      subst this
      decide⟩

theorem twins_inv : twins.Inv :=
  ⟨by decide, by decide, by decide, by decide, fun h _ => (Bool.false_ne_true h).elim, by decide, by decide,
    by decide, by decide, by decide⟩

theorem poly_inv : poly.Inv :=
  ⟨by decide, by decide, by decide, by decide, fun h _ => (Bool.false_ne_true h).elim, by decide, by decide,
    by decide, by decide, by decide⟩

/-- A state right after a DuplicateXCoordinate. -/
def failedTwins : State := { twins with err := 4, errSeen := true, errX := 7, errI := 0, errJ := 2 }

theorem witness_LegalityFollowsTheClauses :
    legal 0x38000000 = false ∧ decode 0x04005783 = .ok (.add (.lit 0x57) (.lit 0x83)) := ⟨rfl, rfl⟩

theorem witness_TableRowsSelectTheLegalWords :
    decode 0x34000000 = .ok .clrerr ∧
      ∃ row ∈ opcodeTable, row.opcode = .clrerr ∧ row.selects 0x34000000 = true := by
  refine ⟨rfl, ⟨.clrerr, 0x34000000, 0xFFFFFFFF⟩, by decide, rfl, by decide⟩

theorem witness_OperandsFollowTheSelectBits :
    decode 0x25FF0700 = .ok (.ldp 255 (.lit 7) .r) ∧ firstOperand (.ldp 255 (.lit 7) .r) = some (.lit 7) ∧
      secondOperand (.ldp 255 (.lit 7) .r) = some .r ∧ indexOperand (.ldp 255 (.lit 7) .r) = some 255 :=
  ⟨rfl, rfl, rfl, rfl⟩

theorem witness_LanesCarryTheWord : (3 < 4) ∧ (7 < 8) ∧ lane 3 0x80000000 = 0x80 ∧ lane 0 0x80000000 = 0 := by decide

theorem witness_StepRunsTheDecodedCommand :
    CoreTurn (running 0x0C005783 ready) (running 0x0C005783 ready) ∧
      CoreTurn { running 0x0C005783 ready with agenda := [.wait] } (running 0x0C005783 ready) ∧
      (CoreTurn { running 0x0C005783 ready with agenda := cmdWrites [0] }
        { running 0x0C005783 ready with agenda := cmdWrites [0] }) ∧
      (running 0x0C005783 ready).resetAsserted = false ∧
      decode 0x0C005783 = .ok (.mul (.lit 0x57) (.lit 0x83)) :=
  ⟨.idle _ rfl, .wait _ [] rfl, .held _ [] 0 rfl rfl, rfl, rfl⟩

theorem witness_FetchWordRunsNext :
    decodeTableWord 32 0x0C005783 = some (.mul (.lit 0x57) (.lit 0x83)) ∧
      decodeTableWord 32 0x34000000 = some .clrerr := ⟨rfl, rfl⟩

theorem witness_IllegalWordsCompleteAsIllegalCommand :
    legal 0x04010000 = false ∧ CoreTurn (running 0x04010000 ready) (running 0x04010000 ready) ∧
      ({ ready with agenda := cmdWrites [0x04010000] } : State).busy = false ∧
      (0x0D#6 < (0x38000000 : Word).extractLsb' 26 6) := ⟨rfl, .idle _ rfl, rfl, by decide⟩

theorem witness_ResetTakesTheResetValues :
    ({ poly with agenda := [.assertReset] } : State).agenda = .assertReset :: [] ∧
      ({ State.reset with resetAsserted := true, agenda := [.wait] } : State).resetAsserted = true := ⟨rfl, rfl⟩

theorem witness_InitialisationReadsAndEnds :
    State.reset.AtResetValues ∧ State.reset.busy = true ∧ State.reset.pending = none ∧
      State.reset.resetAsserted = false ∧ CoreTurn State.reset State.reset ∧
      ({ State.reset with agenda := regReads [.status] } : State).AtResetValues ∧
      ({ State.reset with agenda := cmdWrites [0] } : State).agenda = cmdWrites [0] ++ [] :=
  ⟨reset_atResetValues, rfl, rfl, rfl, .idle _ rfl, reset_atResetValues, rfl⟩

/-- After MOV 3 and a failed command, with nothing loaded. -/
def movedOnly : State := { ready with r := 3, err := 1, errSeen := true }

theorem witness_FirstCommandsAfterReset :
    (movedOnly.coef = [] ∧ movedOnly.px = [] ∧ movedOnly.py = []) ∧ operand (.lit 1) movedOnly = 1 ∧
      operand .r { ready with r := 1 } = 1 ∧ 2 ≤ (operand .r movedOnly).toNat ∧
      2 ≤ (operand (.lit 2) movedOnly).toNat ∧ 2 ≤ (operand (.lit 255) movedOnly).toNat := by decide

theorem witness_CmdWritesAreAcceptedOrHeld :
    ready.resetAsserted = false ∧ ready.busy = false ∧
      ({ ready with agenda := cmdWrites [0x34000000] } : State).agenda = cmdWrites [0x34000000] ++ [] ∧
      (running 0 ready).busy = true ∧ (running 0 ready).pending = some 0 ∧ State.reset.busy = true ∧
      ({ ready with agenda := regReads [.cmd] } : State).agenda = regReads [.cmd] ++ [] :=
  ⟨rfl, rfl, rfl, rfl, rfl, rfl, rfl⟩

theorem witness_StatusReadsItsFields :
    failedTwins.resetAsserted = false ∧
      ({ failedTwins with agenda := regReads [.status] } : State).agenda = regReads [.status] ++ [] := ⟨rfl, rfl⟩

theorem witness_IdReadsTheConstant :
    failedTwins.resetAsserted = false ∧
      ({ failedTwins with agenda := regReads [.id] } : State).agenda = regReads [.id] ++ [] := ⟨rfl, rfl⟩

theorem witness_ErrInfoReadsItsFields :
    failedTwins.resetAsserted = false ∧
      ({ failedTwins with agenda := regReads [.errinfo] } : State).agenda = regReads [.errinfo] ++ [] ∧
      complete 0x1C000300 twins = .next (twins.failedWith 0x4 7 0 2) ∧
      complete 0x1C000000 twins = .next (twins.failedWith 0x5 0 0 0) := ⟨rfl, rfl, rfl, rfl⟩

theorem witness_OtherAccessesGetBusErrors :
    ready.resetAsserted = false ∧ (15 < 16 ∧ 15 % 4 ≠ 0) ∧ (0 < 16 ∧ 1 ≠ 4) ∧ (12 < 16 ∧ 8 ≠ 4) := by decide

theorem witness_PendingCommandsShowOldValues :
    ready.busy = false ∧ ready.resetAsserted = false ∧
      ({ ready with agenda := cmdWrites [0] ++ regReads [.status, .errinfo, .id, .cmd] } : State).agenda =
        cmdWrites [0] ++ regReads [.status, .errinfo, .id, .cmd] ++ [] := ⟨rfl, rfl, rfl⟩

theorem witness_BatchesCompleteInOrder :
    poly.busy = false ∧ poly.pending = none ∧ poly.resetAsserted = false ∧ poly.agenda = [] := ⟨rfl, rfl, rfl, rfl⟩

/-- The hypotheses of IllegalOtherwise, for every opcode: the word whose other 26 bits are all 1 is illegal. -/
theorem witness_IllegalOtherwise : ∀ op : BitVec 6,
    (op ++ 0x3FFFFFF#26).extractLsb' 26 6 = op ∧ legal (op ++ 0x3FFFFFF#26) = false ∧
      CoreTurn (running (op ++ 0x3FFFFFF#26) ready) (running (op ++ 0x3FFFFFF#26) ready) ∧
      (running (op ++ 0x3FFFFFF#26) ready).resetAsserted = false ∧
      (running (op ++ 0x3FFFFFF#26) ready).pending = some (op ++ 0x3FFFFFF#26) := by
  have h : ∀ op : BitVec 6, (op ++ 0x3FFFFFF#26).extractLsb' 26 6 = op ∧ legal (op ++ 0x3FFFFFF#26) = false := by decide
  exact fun op => ⟨(h op).1, (h op).2, .idle _ rfl, rfl, rfl⟩

theorem witness_InvWritesTheInverse : operand (.lit 0x53) ready ≠ 0 ∧ operand .r ready = 0 := by decide

theorem witness_DivWritesTheQuotient :
    operand (.lit 0xff) ready ≠ 0 ∧ operand .r { ready with r := 1 } ≠ 0 ∧ operand (.lit 0) ready = 0 := by decide

theorem witness_EvalWritesTheHornerFold : operand .r poly = 0 ∧ operand (.lit 0xff) poly ≠ 0 := by decide

theorem witness_InterpWritesTheLagrangeValue :
    (operand (.lit 0) twins).toNat = 0 ∧ FirstDuplicate twins.pxAt (operand (.lit 3) twins).toNat 0 2 ∧
      (operand (.lit 3) shares).toNat ≠ 0 ∧ DistinctX shares.pxAt (operand (.lit 3) shares).toNat :=
  ⟨rfl, twins_firstDuplicate, by decide, distinctX_of_bounded (by decide)⟩

theorem witness_InterpOnePointWritesItsY : operand .r { shares with r := 1 } = 1 := rfl

/-- Points (05, 11), (00, 22), (09, 33) (95_test_vectors.md IP15). -/
def withZero : State := { ready with px := [(0, 0x05), (2, 0x09)], py := [(0, 0x11), (1, 0x22), (2, 0x33)] }

theorem witness_InterpPointAtZeroWritesItsY :
    DistinctX withZero.pxAt (operand (.lit 3) withZero).toNat ∧ 1 < (operand (.lit 3) withZero).toNat ∧
      withZero.pxAt 1 = 0 := ⟨distinctX_of_bounded (by decide), by decide, by decide⟩

theorem witness_InterpRecoversTheConstantTerm :
    (2 : Byte).toNat < (operand (.lit 3) poly).toNat ∧ DistinctX poly.pxAt (operand (.lit 3) poly).toNat ∧
      ∀ i, i < (operand (.lit 3) poly).toNat →
        exec (.eval 2 (.lit (poly.pxAt i))) poly = .next { poly.completed with r := poly.pyAt i } := by
  refine ⟨by decide, distinctX_of_bounded (by decide), fun i hi => ?_⟩
  have hi' : i = 0 ∨ i = 1 ∨ i = 2 := by
    have : i < 3 := hi
    omega
  rcases hi' with rfl | rfl | rfl <;> rfl

/-- The points of shares in the order 2, 0, 1 (95_test_vectors.md IP6). -/
def rotated : State :=
  { ready with px := [(0, 0x05), (1, 0x02), (2, 0x04)], py := [(0, 0x99), (1, 0x76), (2, 0x22)] }

theorem witness_InterpIgnoresTheOrderOfPoints :
    operand .r { rotated with r := 3 } = operand (.lit 3) shares ∧ operand (.lit 3) shares ≠ 0 ∧
      DistinctX shares.pxAt (operand (.lit 3) shares).toNat ∧
      (∀ i < 3, (i + 2) % 3 < 3 ∧ State.pxAt { rotated with r := 3 } i = shares.pxAt ((i + 2) % 3) ∧
        State.pyAt { rotated with r := 3 } i = shares.pyAt ((i + 2) % 3)) ∧
      (∀ i < 3, ∀ j < 3, (i + 2) % 3 = (j + 2) % 3 → i = j) :=
  ⟨by decide, by decide, distinctX_of_bounded (by decide), by decide, by decide⟩

theorem witness_LdcWritesOneCoefficient : Memory.wf poly.coef = true := by decide

theorem witness_LdpWritesOnePoint : Memory.wf poly.px = true ∧ Memory.wf poly.py = true := by decide

theorem witness_ReadBackWritesTheEntryToR :
    (ready.coef = [] ∧ ready.px = [] ∧ ready.py = []) ∧
      (∃ t, runCommands [0x20000005, 0x24FE0708] ready = .next t ∧ t.coef = [(0, 5)] ∧ t.px = [(254, 7)] ∧
        t.py = [(254, 8)]) ∧
      (∀ w ∈ [(0x20000005 : Word), 0x24FE0708], (∀ v, decode w ≠ .ok (.ldc 1 v)) ∧
        ∀ x y, decode w ≠ .ok (.ldp 255 x y)) := by
  refine ⟨by decide, ⟨_, rfl, by decide, by decide, by decide⟩, ?_⟩
  have h1 : decode 0x20000005#32 = .ok (.ldc 0 (.lit 5)) := rfl
  have h2 : decode 0x24FE0708#32 = .ok (.ldp 254 (.lit 7) (.lit 8)) := rfl
  rintro w hw
  rcases List.mem_pair.mp hw with rfl | rfl <;> simp_all

theorem witness_NopWritesOnlyTheStatus : (0x00000001 : Word).extractLsb' 26 6 = 0x00 ∧ (0x00000001 : Word) ≠ 0 := by
  decide

theorem witness_ClrerrClearsErrSeen :
    (0x34000001 : Word).extractLsb' 26 6 = 0x0D ∧ (0x34000001 : Word) ≠ 0x34000000 := by decide

theorem witness_DegreeIsTheHighestSetBit : 0xFFFF ≠ 0 ∧ 0xFFFF < 2 ^ 16 ∧ degree 0xFFFF = 15 ∧ degree 0 = -1 := by decide

theorem witness_PolyMulIsTheCarryLessProduct : (0x5 : Nat) ≠ 0 ∧ (0x53 : Nat) ≠ 0 ∧ polyMul 0x5 0x53 = 0x11f := by decide

theorem witness_PolyDivmodIsLongDivision :
    (0x53 : Nat) ≠ 0 ∧ 0x11b = polyMul 0x5 0x53 ^^^ 0x4 ∧ degree 0x4 < degree 0x53 := by decide

theorem witness_InverseIsUnique : (0x53 : Byte) ≠ 0 ∧ gfMul 0x53 0xca = 1 := by decide

theorem witness_MultiplicationLaws : (0xff : Byte) ≠ 0 ∧ (1 : Byte) ≠ 0 := by decide

theorem witness_DivisionLaws : (0xff : Byte) ≠ 0 ∧ (0x53 : Byte) ≠ 0 := by decide

theorem witness_AdditionLaws : ∃ t, exec (.add (.lit 0x57) (.lit 0x83)) poly = .next t := ⟨_, rfl⟩

theorem witness_StepKeepsTheInvariant :
    failedTwins.Inv ∧ ∃ t, step failedTwins = .next t :=
  ⟨⟨by decide, by decide, by decide, by decide, fun h _ => (Bool.false_ne_true h).elim, by decide, by decide,
    by decide, by decide, by decide⟩, _, rfl⟩

theorem witness_OneErrorInTheOrderOfPriority :
    legal 0xFC000000 = false ∧ operand (.lit 0) ready = 0 ∧ operand (.lit 3) twins ≠ 0 ∧
      FirstDuplicate twins.pxAt (operand (.lit 3) twins).toNat 0 2 ∧ ∃ t, exec (.interp (.lit 3)) twins = .next t :=
  ⟨rfl, rfl, by decide, twins_firstDuplicate, _, rfl⟩

theorem witness_FailuresWriteOnlyTheStatus :
    ∃ t, complete 0x14000000 failedTwins = .next t ∧ t.err ≠ 0x0 := ⟨_, rfl, by decide⟩

theorem witness_OnlyCompletionsAndResetChangeCore :
    ∃ t, step (running 0x0C005783 poly) = .next t ∧ t.r ≠ poly.r := ⟨_, rfl, by decide⟩

theorem witness_ErrSeenIsSticky :
    (∃ t, complete 0x14000000 twins = .next t ∧ t.err ≠ 0x0) ∧
      (∃ t, complete 0x00000000 failedTwins = .next t ∧ t.err = 0x0) ∧
      (∃ t, step (running 0x34000000 failedTwins) = .next t ∧ failedTwins.errSeen = true ∧ t.errSeen = false) :=
  ⟨⟨_, rfl, by decide⟩, ⟨_, rfl, rfl⟩, ⟨_, rfl, rfl, rfl⟩⟩

theorem running_inv {s : State} (h : s.Inv) (hr : s.resetAsserted = false) (w : Word) : (running w s).Inv :=
  ⟨h.coefWf, h.pxWf, h.pyWf, fun _ => rfl, fun _ hp => (Option.some_ne_none w hp).elim,
    fun hp => (Bool.false_ne_true (hr.symm.trans hp)).elim, h.errCode, h.errSticky, h.infoZero, h.infoPair⟩

theorem witness_RegistersAndEntriesChangeOnlyAsListed :
    (running 0x28010000 poly).Inv ∧ (∀ rest, (running 0x28010000 poly).agenda ≠ .assertReset :: rest) ∧
      (∃ t, step (running 0x28010000 poly) = .next t ∧ t.r ≠ poly.r) ∧
      (∃ t, step (running 0x20050007 poly) = .next t ∧ Memory.read t.coef 5 ≠ Memory.read poly.coef 5) ∧
      (∃ t, step (running 0x24FF0708 poly) = .next t ∧ Memory.read t.px 255 ≠ Memory.read poly.px 255 ∧
        Memory.read t.py 255 ≠ Memory.read poly.py 255) :=
  ⟨running_inv poly_inv rfl _, fun _ h => (List.cons_ne_nil _ _ h.symm).elim, ⟨_, rfl, by decide⟩, ⟨_, rfl, by decide⟩,
    ⟨_, rfl, by decide, by decide⟩⟩

theorem witness_CommandsIgnoreTheStatusFields : ∃ t, exec (.eval 2 (.lit 3)) poly = .next t := ⟨_, rfl⟩

theorem witness_CanonicalMemoriesAreEqual : Memory.wf [(0, 1), (255, 2)] = true := by decide

theorem witness_AssembleInvertsDisassemble : legal 0x2402039C = true ∧ legal 0x00000000 = true := ⟨rfl, rfl⟩

theorem witness_AssemblerFollowsTheSyntax :
    SyntaxGives "DIV" .div [.lit 0xc1, .r] (.div (.lit 0xc1) .r) 0x1100C100 ∧
      SyntaxGives "LDP" .ldp [.lit 2, .lit 3, .lit 0x9c] (.ldp 2 (.lit 3) (.lit 0x9c)) 0x2402039C ∧
      SyntaxGives "CLRERR" .clrerr [] .clrerr 0x34000000 ∧
      ([] : List AsmOperand).length ≠ (AsmOp.core .add).shape.length ∧
      AsmOperand.lit 256 ∈ [AsmOperand.lit 256, .r] ∧
      (AsmOp.core .eval).shape[0]? = some .literal ∧ [AsmOperand.r, .lit 3][0]? = some .r := by
  refine ⟨⟨rfl, rfl, rfl, by decide⟩, ⟨rfl, rfl, rfl, by decide⟩, ⟨rfl, rfl, rfl, by decide⟩, by decide, by decide,
    by decide, by decide⟩

theorem witness_PseudoInstructionsExpand :
    255 ≤ 255 ∧ OperandKind.value.check .r = none ∧ OperandKind.value.check (.lit 255) = none ∧
      Memory.wf poly.coef = true := by decide

end Sys2Proof.Tests
end

/-! ## When the field functions and INTERP's function answer a value

gf_inv, gf_div and the Lagrange value fail only as spec/60_exceptions.md R203 lists; PolynomialNotInvertible is reached by
no byte. -/

namespace Sys2Proof.Machine

/-- The extended Euclid loop of R116 run on each of the 255 nonzero bytes. -/
theorem gfInv_isOk : ∀ a : Byte, a ≠ 0 → (gfInv a).isOk = true := by decide

theorem gfInv_ok {a : Byte} (h : a ≠ 0) : ∃ v, gfInv a = .ok v := by
  have hok := gfInv_isOk a h
  cases hv : gfInv a with
  | ok v => exact ⟨v, rfl⟩
  | error e => rw [hv] at hok; cases hok

theorem gfInv_zero : gfInv 0 = .error .zeroHasNoInverse := rfl

theorem gfDiv_zero (a : Byte) : gfDiv a 0 = .error .divisionByZero := rfl

theorem gfDiv_ok (a : Byte) {b : Byte} (h : b ≠ 0) : ∃ v, gfDiv a b = .ok v := by
  obtain ⟨v, hv⟩ := gfInv_ok h
  by_cases ha : a = 0
  · exact ⟨0, by rw [gfDiv, if_neg h, if_pos ha]⟩
  · exact ⟨gfMul a v, by rw [gfDiv, if_neg h, if_neg ha, hv]⟩

theorem gfInv_error {a : Byte} {e : ErrKind} (h : gfInv a = .error e) : a = 0 ∧ e = .zeroHasNoInverse := by
  by_cases ha : a = 0
  · rw [ha, gfInv_zero] at h
    exact ⟨ha, (Except.error.inj h).symm⟩
  · obtain ⟨v, hv⟩ := gfInv_ok ha
    rw [hv] at h
    cases h

theorem gfDiv_error {a b : Byte} {e : ErrKind} (h : gfDiv a b = .error e) : b = 0 ∧ e = .divisionByZero := by
  by_cases hb : b = 0
  · rw [hb, gfDiv_zero] at h
    exact ⟨hb, (Except.error.inj h).symm⟩
  · obtain ⟨v, hv⟩ := gfDiv_ok a hb
    rw [hv] at h
    cases h

/-! ### The duplicate check -/

theorem findPartner_eq_find? (px : Nat → Byte) (i : Nat) (js : List Nat) :
    findPartner px i js = js.find? (fun j => decide (j ≠ i ∧ px i = px j)) := by
  induction js with
  | nil => rfl
  | cons j js ih =>
    have hsub : gfSub (px i) (px j) = 0 ↔ px i = px j := BitVec.xor_eq_zero_iff
    simp only [findPartner, hsub, List.find?_cons, ih]
    by_cases h : j ≠ i ∧ px i = px j
    · rw [if_pos h, decide_eq_true h]
    · rw [if_neg h, decide_eq_false h]

theorem findPartner_range_eq_some {px : Nat → Byte} {i j n : Nat} :
    findPartner px i (List.range n) = some j ↔
      (j ≠ i ∧ px i = px j) ∧ j < n ∧ ∀ j' < j, j' ≠ i → px i ≠ px j' := by
  simp only [findPartner_eq_find?, List.find?_range_eq_some, List.mem_range, Bool.not_eq_true', decide_eq_true_eq,
    decide_eq_false_iff_not, not_and, ne_eq]

theorem findPartner_range_eq_none {px : Nat → Byte} {i n : Nat} :
    findPartner px i (List.range n) = none ↔ ∀ j < n, j ≠ i → px i ≠ px j := by
  rw [findPartner_eq_find?, List.find?_eq_none]
  simp

/-- The outer loop stops at the first index that has a partner. -/
theorem findDuplicateIn_eq (px : Nat → Byte) (js is : List Nat) :
    findDuplicateIn px js is =
      (is.find? fun i => (findPartner px i js).isSome).bind fun i => (findPartner px i js).map (i, ·) := by
  induction is with
  | nil => rfl
  | cons i is ih => cases h : findPartner px i js <;> simp [findDuplicateIn, h, ih]

theorem findDuplicate_eq_some_iff_partner {px : Nat → Byte} {n i j : Nat} :
    findDuplicate px n = some (i, j) ↔
      i < n ∧ findPartner px i (List.range n) = some j ∧ ∀ i' < i, findPartner px i' (List.range n) = none := by
  rw [findDuplicate, findDuplicateIn_eq, Option.bind_eq_some_iff]
  constructor
  · rintro ⟨i', hfind, hmap⟩
    obtain ⟨j', hj', hij⟩ := Option.map_eq_some_iff.1 hmap
    obtain ⟨rfl, rfl⟩ := Prod.mk.inj hij
    obtain ⟨-, hi, hbefore⟩ := List.find?_range_eq_some.1 hfind
    exact ⟨List.mem_range.1 hi, hj', fun k hk => by simpa using hbefore k hk⟩
  · rintro ⟨hi, hj, hbefore⟩
    refine ⟨i, List.find?_range_eq_some.2 ⟨by simp [hj], List.mem_range.2 hi, ?_⟩, by simp [hj]⟩
    intro k hk
    simp [hbefore k hk]

/-- The duplicate check reports exactly the first pair of R153. -/
theorem findDuplicate_eq_some {px : Nat → Byte} {n i j : Nat} :
    findDuplicate px n = some (i, j) ↔ FirstDuplicate px n i j := by
  simp only [findDuplicate_eq_some_iff_partner, findPartner_range_eq_some, findPartner_range_eq_none]
  constructor
  · rintro ⟨hi, ⟨⟨hne, heq⟩, hj, hfirst⟩, hrows⟩
    -- were j below i, row j would have had i as a partner
    have hij : i < j := by
      by_contra hle
      exact hrows j (by omega) i hi hne.symm heq.symm
    exact ⟨hij, hj, heq, fun i' j' hi' => hrows i' hi' j', hfirst⟩
  · rintro ⟨hij, hj, heq, hrows, hfirst⟩
    exact ⟨by omega, ⟨⟨by omega, heq⟩, hj, hfirst⟩, fun i' hi' j' => hrows i' j' hi'⟩

theorem findDuplicateIn_eq_none {px : Nat → Byte} {js is : List Nat} :
    findDuplicateIn px js is = none ↔ ∀ i ∈ is, findPartner px i js = none := by
  induction is with
  | nil => simp [findDuplicateIn]
  | cons i is ih => cases h : findPartner px i js <;> simp [findDuplicateIn, h, ih]

theorem findDuplicate_eq_none {px : Nat → Byte} {n : Nat} : findDuplicate px n = none ↔ DistinctX px n := by
  simp only [findDuplicate, findDuplicateIn_eq_none, List.mem_range, findPartner_range_eq_none, DistinctX]
  constructor
  · intro h i j hi hj heq
    by_contra hne
    exact h i hi j hj (Ne.symm hne) heq
  · intro h i hi j hj hne heq
    exact hne (h i j hi hj heq).symm

/-! ### The Lagrange value -/

/-- Over points whose x differs from that of point i, every quotient of the basis product exists. -/
theorem basisLoop_ok {px : Nat → Byte} {i : Nat} {js : List Nat} (h : ∀ j ∈ js, j ≠ i → px i ≠ px j) (basis : Byte) :
    ∃ v, basisLoop px i js basis = .ok v := by
  induction js generalizing basis with
  | nil => exact ⟨basis, rfl⟩
  | cons j js ih =>
    have ih := ih fun k hk => h k (List.mem_cons_of_mem j hk)
    by_cases hj : j = i
    · simpa only [basisLoop, if_pos hj] using ih basis
    · have hsub : gfSub (px i) (px j) ≠ 0 := fun h0 => h j List.mem_cons_self hj (BitVec.xor_eq_zero_iff.1 h0)
      obtain ⟨q, hq⟩ := gfDiv_ok (px j) hsub
      simpa only [basisLoop, if_neg hj, hq] using ih (gfMul basis q)

theorem lagrangeLoop_ok {px : Nat → Byte} (py : Nat → Byte) {js is : List Nat}
    (h : ∀ i ∈ is, ∀ j ∈ js, j ≠ i → px i ≠ px j) (acc : Byte) : ∃ v, lagrangeLoop px py js is acc = .ok v := by
  induction is generalizing acc with
  | nil => exact ⟨acc, rfl⟩
  | cons i is ih =>
    obtain ⟨b, hb⟩ := basisLoop_ok (h i List.mem_cons_self) 1
    simpa only [lagrangeLoop, hb] using ih (fun k hk => h k (List.mem_cons_of_mem i hk)) _

theorem interpAtZero_empty (px py : Nat → Byte) : interpAtZero px py 0 = .error .emptyPointSet := rfl

theorem interpAtZero_duplicate {px : Nat → Byte} (py : Nat → Byte) {n i j : Nat} (h : FirstDuplicate px n i j) :
    interpAtZero px py n = .error (.duplicateXCoordinate (px i) (BitVec.ofNat 8 i) (BitVec.ofNat 8 j)) := by
  have hn : n ≠ 0 := by
    obtain ⟨-, hj, -⟩ := h
    omega
  rw [interpAtZero, if_neg hn, findDuplicate_eq_some.2 h]

theorem interpAtZero_ok {px : Nat → Byte} (py : Nat → Byte) {n : Nat} (hn : n ≠ 0) (h : DistinctX px n) :
    ∃ v, interpAtZero px py n = .ok v := by
  rw [interpAtZero, if_neg hn, findDuplicate_eq_none.2 h]
  exact lagrangeLoop_ok py (fun i hi j hj hne heq =>
    hne (h i j (List.mem_range.1 hi) (List.mem_range.1 hj) heq).symm) 0

theorem distinctX_or_firstDuplicate (px : Nat → Byte) (n : Nat) :
    DistinctX px n ∨ ∃ i j, FirstDuplicate px n i j := by
  cases h : findDuplicate px n with
  | none => exact .inl (findDuplicate_eq_none.1 h)
  | some p => exact .inr ⟨p.1, p.2, findDuplicate_eq_some.1 h⟩

/-- The two failures of INTERP's function, and no third (42_interpolation.md R150). -/
theorem interpAtZero_error {px py : Nat → Byte} {n : Nat} {e : ErrKind} (h : interpAtZero px py n = .error e) :
    (n = 0 ∧ e = .emptyPointSet) ∨
      ∃ i j, FirstDuplicate px n i j ∧ e = .duplicateXCoordinate (px i) (BitVec.ofNat 8 i) (BitVec.ofNat 8 j) := by
  by_cases hn : n = 0
  · rw [hn, interpAtZero_empty] at h
    exact .inl ⟨hn, (Except.error.inj h).symm⟩
  · obtain hd | ⟨i, j, hij⟩ := distinctX_or_firstDuplicate px n
    · obtain ⟨v, hv⟩ := interpAtZero_ok py hn hd
      rw [hv] at h
      cases h
    · rw [interpAtZero_duplicate py hij] at h
      exact .inr ⟨i, j, hij, (Except.error.inj h).symm⟩

end Sys2Proof.Machine

/-! ## What each command does

Every command completes (10_state.md R26, 60_exceptions.md R203), and what it leaves is one of the states of
`Completes`. This refines `Effect` by the command that has the effect and by the reason of a failure. -/

namespace Sys2Proof.Machine

/-- The command on this state fails with this kind (60_exceptions.md R203, R205). -/
inductive Raises (s : State) : Instr → ErrKind → Prop where
  | inv (a : Src) (ha : operand a s = 0) : Raises s (.inv a) .zeroHasNoInverse
  | div (a b : Src) (hb : operand b s = 0) : Raises s (.div a b) .divisionByZero
  | interpEmpty (n : Src) (hn : (operand n s).toNat = 0) : Raises s (.interp n) .emptyPointSet
  | interpDuplicate (n : Src) (i j : Nat) (h : FirstDuplicate s.pxAt (operand n s).toNat i j) :
      Raises s (.interp n) (.duplicateXCoordinate (s.pxAt i) (BitVec.ofNat 8 i) (BitVec.ofNat 8 j))

/-- The commands with a result for R (10_state.md R22). -/
def resultOpcodes : List Opcode := [.add, .sub, .mul, .div, .inv, .eval, .interp, .rdc, .rdpx, .rdpy]

/-- What the command leaves when it completes. -/
inductive Completes (s : State) : Instr → State → Prop where
  | nop : Completes s .nop s.completed
  | clrerr : Completes s .clrerr s.clearErrSeen.completed
  | result (i : Instr) (hi : i.opcode ∈ resultOpcodes) (v : Byte) : Completes s i (s.writeR v).completed
  | ldc (k : Byte) (v : Src) : Completes s (.ldc k v) (s.writeCoef k (operand v s)).completed
  | ldp (k : Byte) (x y : Src) : Completes s (.ldp k x y) (s.writePoint k (operand x s) (operand y s)).completed
  | failed (i : Instr) (e : ErrKind) (he : Raises s i e) :
      Completes s i (s.failedWith e.code e.infoX e.infoI e.infoJ)

theorem Raises.ne_polynomialNotInvertible {s : State} {i : Instr} {e : ErrKind} (h : Raises s i e) :
    e ≠ .polynomialNotInvertible := by
  cases h <;> exact ErrKind.noConfusion

theorem finishR_completes {s : State} {i : Instr} {v : Except ErrKind Byte} (hi : i.opcode ∈ resultOpcodes)
    (hv : ∀ e, v = .error e → Raises s i e) : ∃ t, finishR v s = .next t ∧ Completes s i t := by
  cases v with
  | ok b => exact ⟨_, finishR_ok b s, .result i hi b⟩
  | error e =>
    have he := hv e rfl
    exact ⟨_, raise_eq s he.ne_polynomialNotInvertible, .failed i e he⟩

theorem finishR_ok_completes {s : State} {i : Instr} (hi : i.opcode ∈ resultOpcodes) (b : Byte) :
    ∃ t, finishR (.ok b) s = .next t ∧ Completes s i t :=
  finishR_completes hi fun _ h => nomatch h

/-- Every command completes in every state. -/
theorem exec_completes (i : Instr) (s : State) : ∃ t, exec i s = .next t ∧ Completes s i t := by
  cases i with
  | nop => exact ⟨_, rfl, .nop⟩
  | clrerr => exact ⟨_, rfl, .clrerr⟩
  | ldc k v => exact ⟨_, rfl, .ldc k v⟩
  | ldp k x y => exact ⟨_, rfl, .ldp k x y⟩
  | add | sub | mul | eval | rdc | rdpx | rdpy =>
    exact finishR_ok_completes (by simp [Instr.opcode, resultOpcodes]) _
  | inv a =>
    refine finishR_completes (by simp [Instr.opcode, resultOpcodes]) fun e he => ?_
    obtain ⟨ha, rfl⟩ := gfInv_error he
    exact .inv a ha
  | div a b =>
    refine finishR_completes (by simp [Instr.opcode, resultOpcodes]) fun e he => ?_
    obtain ⟨hb, rfl⟩ := gfDiv_error he
    exact .div a b hb
  | interp n =>
    refine finishR_completes (by simp [Instr.opcode, resultOpcodes]) fun e he => ?_
    obtain ⟨hn, rfl⟩ | ⟨i, j, hij, rfl⟩ := interpAtZero_error he
    · exact .interpEmpty n hn
    · exact .interpDuplicate n i j hij

theorem Completes.of_exec {i : Instr} {s t : State} (h : exec i s = .next t) : Completes s i t := by
  obtain ⟨u, hu, hc⟩ := exec_completes i s
  rw [h] at hu
  exact Host.Outcome.next.inj hu ▸ hc

theorem complete_of_decode {w : Word} {i : Instr} (h : decode w = .ok i) (s : State) : complete w s = exec i s := by
  rw [complete, h]

theorem complete_of_illegal {w : Word} {e : IllegalReason} (h : decode w = .error e) (s : State) :
    complete w s = .next (s.failedWith 0x6 0 0 0) := by
  rw [complete, h, illegalCommand_eq]

/-- Every accepted word completes, legal or not (10_state.md R26). -/
theorem complete_total (w : Word) (s : State) : ∃ t, complete w s = .next t := by
  cases h : decode w with
  | ok i =>
    obtain ⟨t, ht, -⟩ := exec_completes i s
    exact ⟨t, by rw [complete_of_decode h, ht]⟩
  | error e => exact ⟨_, complete_of_illegal h s⟩

/-- What the completion of a pending word leaves: its command's effect, or the failure of an illegal word. -/
theorem complete_cases {w : Word} {s t : State} (h : complete w s = .next t) :
    (∃ i, decode w = .ok i ∧ Completes s i t) ∨
      (∃ e, decode w = .error e ∧ t = s.failedWith 0x6 0 0 0) := by
  cases hd : decode w with
  | ok i => exact .inl ⟨i, rfl, .of_exec (complete_of_decode hd s ▸ h)⟩
  | error e => exact .inr ⟨e, rfl, (Host.Outcome.next.inj ((complete_of_illegal hd s).symm.trans h)).symm⟩

/-- After every completion BUSY is 0 and nothing is pending; the host's side is as it was (10_state.md R26). -/
theorem complete_retires {w : Word} {s t : State} (h : complete w s = .next t) :
    t.busy = false ∧ t.pending = none ∧ t.resetAsserted = s.resetAsserted ∧ t.agenda = s.agenda ∧
      t.responses = s.responses := by
  cases complete_effect h <;> exact ⟨rfl, rfl, rfl, rfl, rfl⟩

/-! ### How a completion writes ERR, ERRSEEN and ERRINFO -/

theorem Completes.errSeen_of_failure {s t : State} {i : Instr} (h : Completes s i t) (he : t.err ≠ 0) :
    t.errSeen = true := by
  cases h with
  | failed => rfl
  | _ => exact absurd rfl he

theorem Raises.code_ne_zero {s : State} {i : Instr} {e : ErrKind} (h : Raises s i e) : e.code ≠ 0 := by
  cases h <;> simp [ErrKind.code]

theorem Completes.errSeen_of_success {s t : State} {i : Instr} (h : Completes s i t) (he : t.err = 0) :
    t.errSeen = if i = .clrerr then false else s.errSeen := by
  cases h with
  | failed i e hr => exact absurd he hr.code_ne_zero
  | result i hi v =>
    have hne : i ≠ .clrerr := by
      rintro rfl
      exact absurd hi (by decide)
    rw [if_neg hne]
    rfl
  | _ => rfl

theorem Completes.errInfo_zero {s t : State} {i : Instr} (h : Completes s i t) (he : t.err ≠ 4) :
    t.errX = 0 ∧ t.errI = 0 ∧ t.errJ = 0 := by
  cases h with
  | failed i e hr =>
    cases hr with
    | interpDuplicate => exact absurd rfl he
    | _ => exact ⟨rfl, rfl, rfl⟩
  | _ => exact ⟨rfl, rfl, rfl⟩

/-- Only an INTERP leaves code 4, and then ERRINFO names the first duplicate pair of its points. -/
theorem Completes.of_duplicate {s t : State} {i : Instr} (h : Completes s i t) (he : t.err = 4) :
    ∃ n j k, i = .interp n ∧ FirstDuplicate s.pxAt (operand n s).toNat j k ∧
      t = s.failedWith 4 (s.pxAt j) (BitVec.ofNat 8 j) (BitVec.ofNat 8 k) := by
  cases h with
  | failed i e hr =>
    cases hr with
    | interpDuplicate n j k hjk => exact ⟨n, j, k, rfl, hjk, rfl⟩
    | _ => exact absurd he (by simp [ErrKind.code])
  | _ => exact absurd he (by simp)

/-- The indices of a first duplicate pair fit in a byte: INTERP counts at most 255 points. -/
theorem FirstDuplicate.lt_255 {px : Nat → Byte} {n : Byte} {i j : Nat} (h : FirstDuplicate px n.toNat i j) :
    i < j ∧ j < 255 := by
  obtain ⟨hij, hj, -⟩ := h
  have := n.isLt
  omega

end Sys2Proof.Machine

/-! ## The invariant -/

namespace Sys2Proof.Machine

namespace State.Inv

variable {s : State}

/-- Nothing the invariant speaks of is in the host's record. -/
theorem advance (h : s.Inv) (rest : List HostEvent) : (s.advance rest).Inv := { h with }

theorem respond (h : s.Inv) (b : BusResponse) : (s.respond b).Inv := { h with }

theorem accept (h : s.Inv) (hr : s.resetAsserted = false) (w : Word) : (s.accept w).Inv :=
  { h with
    pendingBusy := fun _ => rfl
    initialising := nofun
    underReset := fun hr' => nomatch hr.symm.trans hr' }

theorem becomeReady (h : s.Inv) (hr : s.resetAsserted = false) (hp : s.pending = none) : s.becomeReady.Inv :=
  { h with
    pendingBusy := fun hp' => by simp [hp] at hp'
    initialising := nofun
    underReset := fun hr' => nomatch hr.symm.trans hr' }

theorem leaveReset (h : s.Inv) : s.leaveReset.Inv := { h with underReset := nofun }

/-- Asserting reset leads to a state of CORE from any state whatever. -/
theorem enterReset (s : State) : s.enterReset.Inv where
  coefWf := rfl
  pxWf := rfl
  pyWf := rfl
  pendingBusy := nofun
  initialising _ _ := ⟨rfl, rfl, rfl, rfl, rfl, rfl, rfl, rfl, rfl⟩
  underReset _ := ⟨rfl, rfl⟩
  errCode := by simp
  errSticky h := absurd rfl h
  infoZero _ := ⟨rfl, rfl, rfl⟩
  infoPair h := nomatch h

/-- A success keeps the invariant when its own writes kept the canonical form. -/
theorem completed (hr : s.resetAsserted = false) (hcoef : Memory.wf s.coef = true) (hpx : Memory.wf s.px = true)
    (hpy : Memory.wf s.py = true) : s.completed.Inv where
  coefWf := hcoef
  pxWf := hpx
  pyWf := hpy
  pendingBusy := nofun
  initialising := nofun
  underReset hr' := nomatch hr.symm.trans hr'
  errCode := by simp
  errSticky h := absurd rfl h
  infoZero _ := ⟨rfl, rfl, rfl⟩
  infoPair h := nomatch h

/-- A failure with one of the codes without information. -/
theorem failedWith (h : s.Inv) (hr : s.resetAsserted = false) {c : BitVec 4} (hc : c ∈ [0x1#4, 0x2#4, 0x5#4, 0x6#4]) :
    (s.failedWith c 0 0 0).Inv :=
  { h with
    pendingBusy := nofun
    initialising := nofun
    underReset := fun hr' => nomatch hr.symm.trans hr'
    errCode := (show [0x1#4, 0x2#4, 0x5#4, 0x6#4] ⊆ [0x0#4, 0x1#4, 0x2#4, 0x4#4, 0x5#4, 0x6#4] by decide) hc
    errSticky := fun _ => rfl
    infoZero := fun _ => ⟨rfl, rfl, rfl⟩
    infoPair := fun (h4 : c = 4) => absurd (h4 ▸ hc) (by decide) }

/-- A DuplicateXCoordinate that names two equal entries i < j below 255. -/
theorem failedWith_duplicate (h : s.Inv) (hr : s.resetAsserted = false) {i j : Nat} (hij : i < j) (hj : j < 255)
    (hx : s.pxAt i = s.pxAt j) :
    (s.failedWith 0x4 (s.pxAt i) (BitVec.ofNat 8 i) (BitVec.ofNat 8 j)).Inv :=
  { h with
    pendingBusy := nofun
    initialising := nofun
    underReset := fun hr' => nomatch hr.symm.trans hr'
    errCode := by simp
    errSticky := fun _ => rfl
    infoZero := fun h4 => absurd rfl h4
    infoPair := fun _ => by
      refine ⟨?_, ?_, rfl, hx.symm⟩
      · show BitVec.ofNat 8 i < BitVec.ofNat 8 j
        simp only [BitVec.lt_def, BitVec.toNat_ofNat]
        omega
      · show BitVec.ofNat 8 j < 0xFF#8
        simp only [BitVec.lt_def, BitVec.toNat_ofNat]
        omega }

theorem of_raises (h : s.Inv) (hr : s.resetAsserted = false) {i : Instr} {e : ErrKind} (he : Raises s i e) :
    (s.failedWith e.code e.infoX e.infoI e.infoJ).Inv := by
  cases he with
  | inv => exact h.failedWith hr (by simp [ErrKind.code])
  | div => exact h.failedWith hr (by simp [ErrKind.code])
  | interpEmpty => exact h.failedWith hr (by simp [ErrKind.code])
  | interpDuplicate n i j hd =>
    obtain ⟨hij, hj⟩ := hd.lt_255
    obtain ⟨-, -, hx, -⟩ := hd
    exact h.failedWith_duplicate hr hij hj hx

theorem of_completes (h : s.Inv) (hr : s.resetAsserted = false) {i : Instr} {t : State} (hc : Completes s i t) :
    t.Inv := by
  cases hc with
  | nop | clrerr | result => exact completed hr h.coefWf h.pxWf h.pyWf
  | ldc k v => exact completed hr (Memory.wf_write h.coefWf _ _) h.pxWf h.pyWf
  | ldp k x y => exact completed hr h.coefWf (Memory.wf_write h.pxWf _ _) (Memory.wf_write h.pyWf _ _)
  | failed i e he => exact h.of_raises hr he

theorem of_complete (h : s.Inv) (hr : s.resetAsserted = false) {w : Word} {t : State} (hc : complete w s = .next t) :
    t.Inv := by
  obtain ⟨i, -, hc⟩ | ⟨-, -, rfl⟩ := complete_cases hc
  · exact h.of_completes hr hc
  · exact h.failedWith hr (by simp)

theorem of_coreMove (h : s.Inv) {t : State} (hm : coreMove s = .next t) : t.Inv := by
  obtain ⟨-, rfl⟩ | ⟨hr, w, -, hc⟩ | ⟨hr, hp, rfl⟩ := coreMove_next hm
  · exact h
  · exact h.of_complete hr hc
  · exact h.becomeReady hr hp

theorem of_step (h : s.Inv) {t : State} (hs : step s = .next t) : t.Inv := by
  cases step_effect hs with
  | core u t hu hm =>
    have hu' : u.Inv := by
      obtain rfl | ⟨rest, -, rfl⟩ := hu
      · exact h
      · exact h.advance rest
    exact hu'.of_coreMove hm
  | answered a rest b => exact (h.respond b).advance rest
  | accepted addr width w rest ha ht hr hb => exact ((h.accept hr w).respond _).advance rest
  | reset rest => exact (enterReset s).advance rest
  | release rest => exact h.leaveReset.advance rest

end State.Inv

/-- Settles O46: the invariant is kept by each of the ways a step can go (`step_effect`), and by each of the ways a
command can complete (`exec_completes`). -/
theorem stepKeepsTheInvariant : Obligations.StepKeepsTheInvariant :=
  fun _ _ hs hstep => hs.of_step hstep

/-! ## What a step and a completion change -/

/-- Settles O51: a step that is no completion and no reset only records what the host sees, accepts, or ends
initialisation. -/
theorem onlyCompletionsAndResetChangeCore : Obligations.OnlyCompletionsAndResetChangeCore := by
  intro s t h
  cases step_effect h with
  | core u t hu hm =>
    obtain ⟨hp, hr⟩ : u.pending = s.pending ∧ u.resetAsserted = s.resetAsserted := by
      obtain rfl | ⟨rest, -, rfl⟩ := hu <;> exact ⟨rfl, rfl⟩
    obtain ⟨-, rfl⟩ | ⟨hur, w, hw, hc⟩ | ⟨-, -, rfl⟩ := coreMove_next hm
    · left
      obtain rfl | ⟨rest, -, rfl⟩ := hu <;> exact ⟨rfl, rfl, rfl, rfl, rfl, rfl, rfl, rfl, rfl⟩
    · obtain ⟨hbusy, hpending, -⟩ := complete_retires hc
      exact .inr (.inl ⟨w, u, hp ▸ hw, hr ▸ hur, hu.imp_right fun ⟨rest, _, h⟩ => ⟨rest, h⟩, hc, hbusy, hpending⟩)
    · left
      obtain rfl | ⟨rest, -, rfl⟩ := hu <;> exact ⟨rfl, rfl, rfl, rfl, rfl, rfl, rfl, rfl, rfl⟩
  | answered | accepted | release => exact .inl ⟨rfl, rfl, rfl, rfl, rfl, rfl, rfl, rfl, rfl⟩
  | reset rest ha => exact .inr (.inr ⟨rest, ha⟩)

theorem complete_errSeen_of_failure {w : Word} {s t : State} (h : complete w s = .next t) (he : t.err ≠ 0) :
    t.errSeen = true := by
  obtain ⟨i, -, hc⟩ | ⟨-, -, rfl⟩ := complete_cases h
  · exact hc.errSeen_of_failure he
  · rfl

theorem complete_errSeen_of_success {w : Word} {s t : State} (h : complete w s = .next t) (he : t.err = 0) :
    t.errSeen = if decode w = .ok .clrerr then false else s.errSeen := by
  obtain ⟨i, hi, hc⟩ | ⟨-, -, rfl⟩ := complete_cases h
  · simpa only [hi, Except.ok.injEq] using hc.errSeen_of_success he
  · exact absurd he (by simp)

/-- Settles O52: the two ways of completing, and O51 for the steps that are no completion. -/
theorem errSeenIsSticky : Obligations.ErrSeenIsSticky := by
  refine ⟨fun _ _ _ => complete_errSeen_of_failure, fun _ _ _ => complete_errSeen_of_success, ?_⟩
  intro s t hstep hs ht
  obtain ⟨-, -, hkept, -⟩ | ⟨w, u, hw, -, hu, hc, -⟩ | hreset := onlyCompletionsAndResetChangeCore s t hstep
  · exact absurd (hkept.symm.trans ht) (by simp [hs])
  · left
    refine ⟨w, hw, ?_⟩
    have hus : u.errSeen = true := by obtain rfl | ⟨rest, rfl⟩ := hu <;> exact hs
    have herr : t.err = 0 := by
      by_contra hne
      exact absurd (complete_errSeen_of_failure hc hne) (by simp [ht])
    have hseen := complete_errSeen_of_success hc herr
    by_contra hclr
    rw [if_neg hclr, hus, ht] at hseen
    cases hseen
  · exact .inr hreset

/-! ### Which command changed what -/

theorem Completes.of_r_ne {s t : State} {i : Instr} (h : Completes s i t) (hr : t.r ≠ s.r) :
    t.err = 0 ∧ i.opcode ∈ resultOpcodes := by
  cases h with
  | result i hi v => exact ⟨rfl, hi⟩
  | _ => exact absurd rfl hr

theorem Completes.of_coef_ne {s t : State} {i : Instr} (h : Completes s i t) (hwf : Memory.wf s.coef = true) {k : Byte}
    (hk : Memory.read t.coef k ≠ Memory.read s.coef k) : ∃ v, i = .ldc k v := by
  cases h with
  | ldc j v =>
    by_cases hj : k = j
    · exact ⟨v, hj ▸ rfl⟩
    · exact absurd (Memory.read_write_other hwf _ hj) hk
  | _ => exact absurd rfl hk

theorem Completes.of_point_ne {s t : State} {i : Instr} (h : Completes s i t) (hpx : Memory.wf s.px = true)
    (hpy : Memory.wf s.py = true) {k : Byte}
    (hk : Memory.read t.px k ≠ Memory.read s.px k ∨ Memory.read t.py k ≠ Memory.read s.py k) :
    ∃ x y, i = .ldp k x y := by
  cases h with
  | ldp j x y =>
    by_cases hj : k = j
    · exact ⟨x, y, hj ▸ rfl⟩
    · exact (hk.elim (· (Memory.read_write_other hpx _ hj)) (· (Memory.read_write_other hpy _ hj))).elim
  | _ => exact (hk.elim (· rfl) (· rfl)).elim

/-- A step of a state of CORE that is not the assertion of reset leaves R and the memories, or completes the command
the pending word decodes to, or fails it as an illegal word, which leaves them too. -/
theorem step_writes {s t : State} (h : step s = .next t) (hreset : ∀ rest, s.agenda ≠ .assertReset :: rest) :
    (t.r = s.r ∧ t.coef = s.coef ∧ t.px = s.px ∧ t.py = s.py) ∨
      ∃ w i u, s.pending = some w ∧ decode w = .ok i ∧ (u = s ∨ ∃ rest, u = s.advance rest) ∧ Completes u i t := by
  obtain ⟨hr, -, -, -, -, -, hcoef, hpx, hpy⟩ | ⟨w, u, hw, -, hu, hc, -⟩ | ⟨rest, hrest⟩ :=
    onlyCompletionsAndResetChangeCore s t h
  · exact .inl ⟨hr, hcoef, hpx, hpy⟩
  · obtain ⟨i, hi, hc⟩ | ⟨-, -, rfl⟩ := complete_cases hc
    · exact .inr ⟨w, i, u, hw, hi, hu, hc⟩
    · obtain rfl | ⟨rest, rfl⟩ := hu <;> exact .inl ⟨rfl, rfl, rfl, rfl⟩
  · exact absurd hrest (hreset rest)

/-- Settles O53: by O51 such a step is a completion, and the command's effect names the entry it writes. -/
theorem registersAndEntriesChangeOnlyAsListed : Obligations.RegistersAndEntriesChangeOnlyAsListed := by
  intro s t hs hstep hreset
  obtain ⟨hr, hcoef, hpx, hpy⟩ | ⟨w, i, u, hw, hi, hu, hc⟩ := step_writes hstep hreset
  · exact ⟨fun h => absurd hr h, fun k h => absurd (by rw [hcoef]) h,
      fun k h => (h.elim (· (by rw [hpx])) (· (by rw [hpy]))).elim⟩
  · obtain ⟨hr, hcoef, hpx, hpy⟩ : u.r = s.r ∧ u.coef = s.coef ∧ u.px = s.px ∧ u.py = s.py := by
      obtain rfl | ⟨rest, rfl⟩ := hu <;> exact ⟨rfl, rfl, rfl, rfl⟩
    rw [← hr, ← hcoef, ← hpx, ← hpy]
    refine ⟨fun h => ?_, fun k h => ?_, fun k h => ?_⟩
    · exact ⟨w, i, hw, hi, hc.of_r_ne h⟩
    · obtain ⟨v, rfl⟩ := hc.of_coef_ne (hcoef ▸ hs.coefWf) h
      exact ⟨w, v, hw, hi⟩
    · obtain ⟨x, y, rfl⟩ := hc.of_point_ne (hpx ▸ hs.pxWf) (hpy ▸ hs.pyWf) h
      exact ⟨w, x, y, hw, hi⟩

/-! ### What commands do not read -/

/-- The state with other status fields. -/
def State.withStatus (s : State) (e : BitVec 4) (b : Bool) (x y z : Byte) : State :=
  { s with err := e, errSeen := b, errX := x, errI := y, errJ := z }

/-- The outcome from a state with ERRSEEN = b is that from one with ERRSEEN = b₀, but for an ERRSEEN not written. -/
def SameButErrSeen (b₀ b : Bool) (t : State) (o : Host.Outcome State Fault Refusal) : Prop :=
  ∃ b', o = .next { t with errSeen := b' } ∧ (b = b₀ → b' = t.errSeen)

section
variable {s t : State} (e : BitVec 4) (b : Bool) (x y z : Byte)

theorem succeed_withStatus (h : succeed s = .next t) :
    SameButErrSeen s.errSeen b t (succeed (s.withStatus e b x y z)) := by
  rw [succeed_eq] at h
  cases h
  exact ⟨b, rfl, id⟩

theorem finishR_withStatus {v : Except ErrKind Byte} (h : finishR v s = .next t) :
    SameButErrSeen s.errSeen b t (finishR v (s.withStatus e b x y z)) := by
  obtain ⟨v, rfl, rfl⟩ | ⟨k, rfl, hk, rfl⟩ := finishR_next h
  · exact ⟨b, rfl, id⟩
  · exact ⟨true, raise_eq _ hk, fun _ => rfl⟩

theorem exec_withStatus {i : Instr} (h : exec i s = .next t) :
    SameButErrSeen s.errSeen b t (exec i (s.withStatus e b x y z)) := by
  cases i with
  | nop => exact succeed_withStatus e b x y z h
  | ldc k v => exact succeed_withStatus (s := s.writeCoef k (operand v s)) e b x y z h
  | ldp k u v => exact succeed_withStatus (s := s.writePoint k (operand u s) (operand v s)) e b x y z h
  | clrerr =>
    cases h
    exact ⟨false, rfl, fun _ => rfl⟩
  | add | sub | mul | eval | rdc | rdpx | rdpy => exact finishR_withStatus (v := .ok _) e b x y z h
  | div | inv | interp => exact finishR_withStatus e b x y z h

end

/-- Settles O54: every command ends in `succeed` or `finishR` on operands and memories only. -/
theorem commandsIgnoreTheStatusFields : Obligations.CommandsIgnoreTheStatusFields :=
  fun _ _ _ e b x y z h => exec_withStatus e b x y z h

end Sys2Proof.Machine

/-! ## CORE's turn

A host access that reaches a register, and CORE's own move: what a step is in each case. -/

namespace Sys2Proof.Machine

theorem step_access {s : State} {a : Access} {rest : List HostEvent} (h : s.agenda = .access a :: rest) :
    step s = busAccess a rest s := by
  rw [step, h]
  rfl

theorem busAccess_reg {s : State} {a : Access} {g : WindowReg} (hr : s.resetAsserted = false) (ha : a.target = .reg g)
    (rest : List HostEvent) : busAccess a rest s = accessReg a g rest s := by
  simp [busAccess, hr, ha]

/-- With reset released, a whole access of a register of the window reaches it (20_memory.md R55, R56). -/
theorem step_accessReg {s : State} {a : Access} {g : WindowReg} {rest : List HostEvent} (hr : s.resetAsserted = false)
    (h : s.agenda = .access a :: rest) (ha : a.target = .reg g) : step s = accessReg a g rest s := by
  rw [step_access h, busAccess_reg hr ha]

theorem step_write_cmd {s : State} {w : Word} {rest : List HostEvent} (hr : s.resetAsserted = false)
    (h : s.agenda = .access (.write Config.coreBase 4 w) :: rest) : step s = writeCmd w rest s :=
  step_accessReg (g := .cmd) hr h (targetOf_reg .cmd)

theorem coreMove_pending {s : State} {w : Word} (hr : s.resetAsserted = false) (hw : s.pending = some w) :
    coreMove s = complete w s := by
  simp [coreMove, hr, hw]

theorem coreMove_idle {s : State} (hr : s.resetAsserted = false) (hp : s.pending = none) :
    coreMove s = .next s.becomeReady := by
  simp [coreMove, hr, hp]

/-- Each of the three kinds of CORE's turn (10_state.md R24, R26) is CORE's move. -/
theorem step_coreTurn {s t : State} (h : CoreTurn s t) (hr : s.resetAsserted = false) : step s = coreMove t := by
  cases h with
  | idle h => simp only [step, h]
  | wait rest h => simp only [step, h, hostEvent, State.advance]
  | held rest w h hb => rw [step_write_cmd hr h, writeCmd, if_pos hb]

theorem coreTurn_frame {s t : State} (h : CoreTurn s t) :
    t.pending = s.pending ∧ t.resetAsserted = s.resetAsserted := by
  cases h <;> exact ⟨rfl, rfl⟩

theorem step_completes_pending {s t : State} {w : Word} (h : CoreTurn s t) (hr : s.resetAsserted = false)
    (hw : s.pending = some w) : step s = complete w t := by
  obtain ⟨hp, hr'⟩ := coreTurn_frame h
  rw [step_coreTurn h hr, coreMove_pending (hr'.trans hr) (hp.trans hw)]

/-- Settles O7: on CORE's turn the step completes the pending word, and a legal word's completion is exec. -/
theorem stepRunsTheDecodedCommand : Obligations.StepRunsTheDecodedCommand := by
  intro s t w i hturn hr hw hi
  rw [step_completes_pending hturn hr hw, complete_of_decode hi]

theorem decode_of_decodeTableWord {nbits w : Nat} {i : Instr} (h : decodeTableWord nbits w = some i) :
    decode (tableWord nbits w) = .ok i := by
  rw [decodeTableWord, decodeLanes_lanesOf] at h
  split at h
  · cases hd : decode (tableWord nbits w) with
    | ok j => rw [hd] at h; exact congrArg _ (Option.some.inj h)
    | error e => rw [hd] at h; cases h
  · cases h

/-- Settles O8: withFetchWord makes it CORE's turn, by a wait. -/
theorem fetchWordRunsNext : Obligations.FetchWordRunsNext := fun s nbits w i h =>
  stepRunsTheDecodedCommand _ _ (tableWord nbits w) i (.wait (s.withFetchWord nbits w) s.agenda rfl) rfl rfl
    (decode_of_decodeTableWord h)

/-! ## The register window -/

/-- A read answers the register's value and has no other effect (20_memory.md R56). -/
theorem step_read {s : State} {g : WindowReg} {rest : List HostEvent} (hr : s.resetAsserted = false)
    (h : s.agenda = regReads [g] ++ rest) :
    step s = .next ((s.respond (.data (s.readReg g))).advance rest) :=
  step_accessReg hr h (targetOf_reg g)

/-- A write to a read-only register completes and has no other effect (10_state.md R25, R29, R30). -/
theorem step_write_readOnly {s : State} {g : WindowReg} {w : Word} {rest : List HostEvent} (hg : g ≠ .cmd)
    (hr : s.resetAsserted = false) (h : s.agenda = .access (.write (Config.coreBase + regOffset g) 4 w) :: rest) :
    step s = .next ((s.respond .writeDone).advance rest) := by
  rw [step_accessReg hr h (targetOf_reg g)]
  cases g with
  | cmd => exact absurd rfl hg
  | status | errinfo | id => rfl

/-- CORE's move with reset released always answers a next state, with BUSY = 0 and nothing pending. -/
theorem coreMove_ready {s : State} (hr : s.resetAsserted = false) :
    ∃ t, coreMove s = .next t ∧ t.agenda = s.agenda ∧ t.responses = s.responses ∧ t.busy = false ∧ t.pending = none ∧
      ∀ v, s.pending = some v → complete v s = .next t := by
  cases hp : s.pending with
  | none => exact ⟨_, coreMove_idle hr hp, rfl, rfl, rfl, hp, nofun⟩
  | some w =>
    obtain ⟨t, ht⟩ := complete_total w s
    obtain ⟨hbusy, hpending, -, hagenda, hresponses⟩ := complete_retires ht
    refine ⟨t, (coreMove_pending hr hp).trans ht, hagenda, hresponses, hbusy, hpending, ?_⟩
    rintro v hv
    cases hv
    exact ht

theorem step_cmdWrite_accepted {s : State} {w : Word} {rest : List HostEvent} (hr : s.resetAsserted = false)
    (hb : s.busy = false) (h : s.agenda = cmdWrites [w] ++ rest) :
    step s = .next (((s.accept w).respond .writeDone).advance rest) := by
  rw [step_write_cmd (rest := rest) hr h, writeCmd, if_neg (by simp [hb])]

theorem step_cmdWrite_held {s : State} {w : Word} {rest : List HostEvent} (hr : s.resetAsserted = false)
    (hb : s.busy = true) (h : s.agenda = cmdWrites [w] ++ rest) : step s = coreMove s :=
  step_coreTurn (.held s rest w h hb) hr

/-- Settles O14: a held write lets CORE move, and CORE's move always ends BUSY. -/
theorem cmdWritesAreAcceptedOrHeld : Obligations.CmdWritesAreAcceptedOrHeld := by
  intro s rest hr
  refine ⟨fun w hw => ⟨fun hb => step_cmdWrite_accepted hr hb hw, fun hb => ?_⟩, step_read hr⟩
  rw [step_cmdWrite_held hr hb hw]
  exact coreMove_ready hr

/-- Bit k of STATUS, field by field (10_state.md R25). -/
theorem getLsbD_status (s : State) {k : Nat} (hk : k < 32) :
    s.status.getLsbD k =
      if k < 8 then s.r.getLsbD k else if k < 12 then s.err.getLsbD (k - 8) else if k = 12 then s.errSeen
      else if k < 31 then false else s.busy := by
  simp only [State.status, BitVec.getLsbD_append]
  interval_cases k <;> simp

/-- Bit k of ERRINFO, field by field (10_state.md R30). -/
theorem getLsbD_errInfo (s : State) {k : Nat} (hk : k < 32) :
    s.errInfo.getLsbD k =
      if k < 8 then s.errX.getLsbD k else if k < 16 then s.errI.getLsbD (k - 8)
      else if k < 24 then s.errJ.getLsbD (k - 16) else false := by
  simp only [State.errInfo, BitVec.getLsbD_append]
  interval_cases k <;> simp

theorem extractLsb'_eq_of_bits {n : Nat} {v : Word} {x : BitVec n} (k : Nat)
    (h : ∀ i < n, v.getLsbD (k + i) = x.getLsbD i) : v.extractLsb' k n = x := by
  ext i hi
  rw [BitVec.getElem_extractLsb', h i hi, BitVec.getLsbD_eq_getElem]

theorem status_fields (s : State) :
    s.status.extractLsb' 0 8 = s.r ∧ s.status.extractLsb' 8 4 = s.err ∧ s.status.getLsbD 12 = s.errSeen ∧
      s.status.extractLsb' 13 18 = 0 ∧ s.status.getLsbD 31 = s.busy := by
  refine ⟨extractLsb'_eq_of_bits 0 fun i hi => ?_, extractLsb'_eq_of_bits 8 fun i hi => ?_,
    getLsbD_status s (by decide), extractLsb'_eq_of_bits 13 fun i hi => ?_, getLsbD_status s (by decide)⟩ <;>
  · rw [getLsbD_status s (by omega)]
    interval_cases i <;> rfl

theorem errInfo_fields (s : State) :
    s.errInfo.extractLsb' 0 8 = s.errX ∧ s.errInfo.extractLsb' 8 8 = s.errI ∧ s.errInfo.extractLsb' 16 8 = s.errJ ∧
      s.errInfo.extractLsb' 24 8 = 0 := by
  refine ⟨extractLsb'_eq_of_bits 0 fun i hi => ?_, extractLsb'_eq_of_bits 8 fun i hi => ?_,
    extractLsb'_eq_of_bits 16 fun i hi => ?_, extractLsb'_eq_of_bits 24 fun i hi => ?_⟩ <;>
  · rw [getLsbD_errInfo s (by omega)]
    interval_cases i <;> rfl

/-- Settles O15: the read of STATUS answers `State.status`, whose bits are `getLsbD_status`. -/
theorem statusReadsItsFields : Obligations.StatusReadsItsFields := by
  refine ⟨⟨by decide, by decide⟩, fun s rest hr => ⟨fun h => ?_, fun w h => ?_⟩⟩
  · exact ⟨s.status, step_read hr h, status_fields s⟩
  · exact step_write_readOnly (g := .status) (by decide) hr h

/-- Settles O16: ID is one of the read-only registers. -/
theorem idReadsTheConstant : Obligations.IdReadsTheConstant :=
  fun _ _ hr => ⟨step_read hr, fun _ => step_write_readOnly (g := .id) (by decide) hr⟩

/-- What a completion leaves in ERRINFO (10_state.md R30, 42_interpolation.md R153). -/
theorem complete_errInfo {w : Word} {s t : State} (h : complete w s = .next t) :
    (t.err ≠ 0x4 → t.errX = 0x00 ∧ t.errI = 0x00 ∧ t.errJ = 0x00) ∧
      (t.err = 0x4 → ∃ n, decode w = .ok (.interp n) ∧
        FirstDuplicate s.pxAt (operand n s).toNat t.errI.toNat t.errJ.toNat ∧ t.errX = s.pxAt t.errI.toNat) := by
  obtain ⟨i, hi, hc⟩ | ⟨-, -, rfl⟩ := complete_cases h
  · refine ⟨hc.errInfo_zero, fun h4 => ?_⟩
    obtain ⟨n, j, k, rfl, hjk, rfl⟩ := hc.of_duplicate h4
    obtain ⟨hlt, hk⟩ := hjk.lt_255
    have hj8 : (BitVec.ofNat 8 j).toNat = j := Nat.mod_eq_of_lt (by omega)
    have hk8 : (BitVec.ofNat 8 k).toNat = k := Nat.mod_eq_of_lt (by omega)
    refine ⟨n, hi, ?_, ?_⟩
    · simpa only [State.failedWith_errI, State.failedWith_errJ, hj8, hk8] using hjk
    · simp only [State.failedWith_errI, State.failedWith_errX, hj8]
  · exact ⟨fun _ => ⟨rfl, rfl, rfl⟩, fun h4 => absurd h4 (by simp)⟩

/-- Settles O17: the window as for STATUS, and ERRINFO after each way of completing (`complete_errInfo`). -/
theorem errInfoReadsItsFields : Obligations.ErrInfoReadsItsFields := by
  refine ⟨by decide, fun s rest hr => ⟨fun h => ?_, fun w h => ?_⟩, fun _ _ _ => complete_errInfo⟩
  · exact ⟨s.errInfo, step_read hr h, errInfo_fields s⟩
  · exact step_write_readOnly (g := .errinfo) (by decide) hr h

/-! ### Reads while a command is pending -/

/-- What the bus has answered, and what the host does next, is in no register. -/
theorem readReg_respond_advance (s : State) (b : BusResponse) (rest : List HostEvent) (g : WindowReg) :
    ((s.respond b).advance rest).readReg g = s.readReg g := by
  cases g <;> rfl

/-- Reads in a row answer the registers of the state before them, whatever CORE is doing: they do not let it move. -/
theorem runSteps_regReads {s : State} (gs : List WindowReg) {rest : List HostEvent} (hr : s.resetAsserted = false)
    (h : s.agenda = regReads gs ++ rest) :
    runSteps gs.length s =
      .next { s with agenda := rest
                     responses := (gs.map fun g => BusResponse.data (s.readReg g)).reverse ++ s.responses } := by
  induction gs generalizing s with
  | nil =>
    cases s
    cases h
    rfl
  | cons g gs ih =>
    have hread := step_read (g := g) (rest := regReads gs ++ rest) hr h
    rw [List.length_cons, runSteps_succ hread, ih (s := (s.respond _).advance _) hr rfl]
    simp only [readReg_respond_advance, List.map_cons, List.reverse_cons, List.append_assoc, List.singleton_append]
    rfl

theorem status_accept {s : State} (hb : s.busy = false) (w : Word) :
    (s.accept w).status = s.status ||| 0x80000000 := by
  apply BitVec.eq_of_getLsbD_eq
  intro k hk
  rw [BitVec.getLsbD_or, getLsbD_status _ hk, getLsbD_status _ hk, hb]
  interval_cases k <;> simp
/-- Settles O19: the write is accepted in one step, and the reads after it see BUSY = 1 and the fields of before. -/
theorem pendingCommandsShowOldValues : Obligations.PendingCommandsShowOldValues := by
  intro s w gs rest hb hr h
  rw [List.append_assoc] at h
  rw [runSteps_succ (step_cmdWrite_accepted hr hb h),
    runSteps_regReads (s := ((s.accept w).respond _).advance _) gs hr rfl]
  simp only [readReg_respond_advance]
  refine congrArg (fun l : List BusResponse => Host.Outcome.next
    { s with pending := some w, busy := true, agenda := rest, responses := l.reverse ++ BusResponse.writeDone :: s.responses })
    (List.map_congr_left fun g _ => ?_)
  cases g with
  | status => exact congrArg BusResponse.data (status_accept hb w)
  | cmd | errinfo | id => rfl

end Sys2Proof.Machine

/-! ## Byte lanes -/

namespace Sys2Proof

/-- Settles O6: a lane is a slice of the word, and the four slices put together are the word (`wordOfLanes_lanes`). -/
theorem lanesCarryTheWord : Obligations.LanesCarryTheWord := by
  refine ⟨fun w k j _ hj => ?_, decodeLanes_lanesOf⟩
  rw [lane, BitVec.getLsbD_extractLsb', decide_eq_true hj, Bool.true_and]

end Sys2Proof

/-! ## Host accesses that reach no register

An access under reset and an access outside the window stop the model; an access of the window that is not a whole
aligned word gets a bus error (20_memory.md R51, R58). -/

namespace Sys2Proof.Machine

theorem busAccess_underReset {s : State} (hr : s.resetAsserted = true) (a : Access) (rest : List HostEvent) :
    busAccess a rest s = .fault .accessDuringReset := by
  rw [busAccess, if_pos hr]

theorem busAccess_outside {s : State} {a : Access} (hr : s.resetAsserted = false) (ha : a.target = .outside)
    (rest : List HostEvent) : busAccess a rest s = .refused .outsideWindow := by
  simp [busAccess, hr, ha]

theorem busAccess_busError {s : State} {a : Access} (hr : s.resetAsserted = false) (ha : a.target = .busError)
    (rest : List HostEvent) : busAccess a rest s = .next ((s.respond .busError).advance rest) := by
  simp [busAccess, hr, ha]

/-- The registers of the window stand at multiples of 4 (10_state.md R23). -/
theorem windowReg_misaligned {off : Nat} (h : off % 4 ≠ 0) : windowReg off = none := by
  unfold windowReg
  split
  iterate 4 exact absurd rfl h
  rfl

theorem windowTarget_busError {off width : Nat} (h : width ≠ 4 ∨ off % 4 ≠ 0) :
    windowTarget off width = .busError := by
  unfold windowTarget
  split
  · next hw => rw [windowReg_misaligned (h.resolve_left (not_not_intro hw))]
  · rfl

/-- Settles O18: a read and a write there have one target, and it is the bus error. -/
theorem otherAccessesGetBusErrors : Obligations.OtherAccessesGetBusErrors := by
  intro s rest off width hr hoff h
  have target : targetOf (Config.coreBase + off) width = .busError :=
    (targetOf_window hoff width).trans (windowTarget_busError h)
  have answer {a : Access} (hs : s.agenda = .access a :: rest) (ha : a.target = .busError) :
      step s = .next ((s.respond .busError).advance rest) :=
    (step_access hs).trans (busAccess_busError hr ha rest)
  exact ⟨fun hs => answer hs target, fun _ hs => answer hs target⟩

/-! ### What never stops -/

theorem coreMove_total (s : State) : ∃ t, coreMove s = .next t := by
  cases hr : s.resetAsserted with
  | true => exact ⟨s, by rw [coreMove, if_pos hr]⟩
  | false =>
    obtain ⟨t, ht, -⟩ := coreMove_ready hr
    exact ⟨t, ht⟩

theorem writeCmd_total (w : Word) (rest : List HostEvent) (s : State) : ∃ t, writeCmd w rest s = .next t := by
  unfold writeCmd
  split
  · exact coreMove_total s
  · exact ⟨_, rfl⟩

theorem accessReg_total (a : Access) (g : WindowReg) (rest : List HostEvent) (s : State) :
    ∃ t, accessReg a g rest s = .next t := by
  cases a with
  | read addr width => exact ⟨_, rfl⟩
  | write addr width w =>
    cases g with
    | cmd => exact writeCmd_total w rest s
    | status | errinfo | id => exact ⟨_, rfl⟩

/-- With reset released, an access stops the model only where it does not select the window. -/
theorem busAccess_total {s : State} {a : Access} (hr : s.resetAsserted = false) (ha : a.target ≠ .outside)
    (rest : List HostEvent) : ∃ t, busAccess a rest s = .next t := by
  cases ht : a.target with
  | outside => exact absurd ht ha
  | busError => exact ⟨_, busAccess_busError hr ht rest⟩
  | reg g =>
    rw [busAccess_reg hr ht]
    exact accessReg_total a g rest s

theorem step_event {s : State} {e : HostEvent} {rest : List HostEvent} (h : s.agenda = e :: rest) :
    step s = hostEvent e rest s := by
  rw [step, h]

/-- Settles O10: CORE's own move and a change of the reset input always have a next state; an access is under reset,
outside the window, or answered (`busAccess_total`). -/
theorem onlyTwoHostAccessesStop : Obligations.OnlyTwoHostAccessesStop := by
  intro s
  unfold SafeStep
  cases hs : s.agenda with
  | nil =>
    rw [step, hs]
    exact .inl (coreMove_total s)
  | cons e rest =>
    cases e with
    | access a =>
      rw [step_access hs]
      cases hr : s.resetAsserted with
      | true => exact .inr (.inl ⟨a, rest, rfl, rfl, busAccess_underReset hr a rest⟩)
      | false =>
        by_cases ha : a.target = .outside
        · exact .inr (.inr ⟨a, rest, rfl, rfl, ha, busAccess_outside hr ha rest⟩)
        · exact .inl (busAccess_total hr ha rest)
    | wait => exact .inl (step_event hs ▸ coreMove_total (s.advance rest))
    | assertReset => exact .inl ⟨_, step_event hs⟩
    | releaseReset => exact .inl ⟨_, step_event hs⟩

/-! ## Batches of commands

A completion reads and writes nothing of the host's record, nor whether a word is pending, so a command completes after
its delivery by the bus as it does on the idle state before it. -/

/-- The state with another record of the host: what it does next, and what the bus has answered. -/
def State.withHost (s : State) (agenda : List HostEvent) (responses : List BusResponse) : State :=
  { s with agenda := agenda, responses := responses }

section
variable {s t : State} (w : Word) (as : List HostEvent) (rs : List BusResponse)

theorem succeed_accept_withHost (h : succeed s = .next t) :
    succeed ((s.accept w).withHost as rs) = .next (t.withHost as rs) := by
  cases h
  rfl

theorem finishR_accept_withHost {v : Except ErrKind Byte} (h : finishR v s = .next t) :
    finishR v ((s.accept w).withHost as rs) = .next (t.withHost as rs) := by
  obtain ⟨b, rfl, rfl⟩ | ⟨e, rfl, he, rfl⟩ := finishR_next h
  · rfl
  · exact raise_eq _ he

theorem exec_accept_withHost {i : Instr} (h : exec i s = .next t) :
    exec i ((s.accept w).withHost as rs) = .next (t.withHost as rs) := by
  cases i with
  | nop => exact succeed_accept_withHost w as rs h
  | clrerr => exact succeed_accept_withHost (s := s.clearErrSeen) w as rs h
  | ldc k v => exact succeed_accept_withHost (s := s.writeCoef k (operand v s)) w as rs h
  | ldp k x y => exact succeed_accept_withHost (s := s.writePoint k (operand x s) (operand y s)) w as rs h
  | add | sub | mul | eval | rdc | rdpx | rdpy => exact finishR_accept_withHost (v := .ok _) w as rs h
  | div | inv | interp => exact finishR_accept_withHost w as rs h

theorem complete_accept_withHost {v : Word} (h : complete v s = .next t) :
    complete v ((s.accept w).withHost as rs) = .next (t.withHost as rs) := by
  cases hv : decode v with
  | ok i =>
    rw [complete_of_decode hv] at h ⊢
    exact exec_accept_withHost w as rs h
  | error e =>
    rw [complete_of_illegal hv] at h ⊢
    cases h
    rfl

end

/-- With BUSY = 1 and only CMD writes to come, it is CORE's turn: the next write is held, or there is none. -/
theorem coreTurn_cmdWrites {s : State} {ws : List Word} (hb : s.busy = true) (h : s.agenda = cmdWrites ws) :
    CoreTurn s s := by
  cases ws with
  | nil => exact .idle s h
  | cons w ws => exact .held s (cmdWrites ws) w h hb

/-- A CMD write that finds BUSY = 0 takes two steps, its acceptance and its completion
(70_reset_and_hazards.md R252). -/
theorem runSteps_cmdWrite {s t : State} {w : Word} (hb : s.busy = false) (hr : s.resetAsserted = false)
    (h : complete w s = .next t) (ws : List Word) (rs : List BusResponse) (k : Nat) :
    runSteps (k + 2) (s.withHost (cmdWrites (w :: ws)) rs) =
      runSteps k (t.withHost (cmdWrites ws) (.writeDone :: rs)) := by
  have accepted : step (s.withHost (cmdWrites (w :: ws)) rs) =
      .next ((s.accept w).withHost (cmdWrites ws) (.writeDone :: rs)) := step_cmdWrite_accepted hr hb rfl
  have turn : CoreTurn ((s.accept w).withHost (cmdWrites ws) (.writeDone :: rs)) _ := coreTurn_cmdWrites rfl rfl
  have completed : step ((s.accept w).withHost (cmdWrites ws) (.writeDone :: rs)) =
      .next (t.withHost (cmdWrites ws) (.writeDone :: rs)) :=
    (step_completes_pending turn hr rfl).trans (complete_accept_withHost w _ _ h)
  rw [runSteps_succ accepted, runSteps_succ completed]

theorem runCommands_cons {s t : State} {w : Word} (h : complete w s = .next t) (ws : List Word) :
    runCommands (w :: ws) s = runCommands ws t := by
  rw [runCommands, h]

/-- A batch written to CMD without waiting reaches what its commands reach one after another, whatever the bus has
answered before. -/
theorem runSteps_cmdWrites (ws : List Word) {s : State} (hb : s.busy = false) (hr : s.resetAsserted = false) :
    ∃ t, runCommands ws s = .next t ∧ t.agenda = s.agenda ∧ ∀ rs,
      runSteps (2 * ws.length) (s.withHost (cmdWrites ws) rs) =
        .next (t.withHost [] (List.replicate ws.length .writeDone ++ rs)) := by
  induction ws generalizing s with
  | nil => exact ⟨s, rfl, rfl, fun _ => rfl⟩
  | cons w ws ih =>
    obtain ⟨u, hu⟩ := complete_total w s
    obtain ⟨hbusy, -, hreset, hagenda, -⟩ := complete_retires hu
    obtain ⟨t, ht, hta, hrun⟩ := ih hbusy (hreset.trans hr)
    refine ⟨t, (runCommands_cons hu ws).trans ht, hta.trans hagenda, fun rs => ?_⟩
    rw [List.length_cons, Nat.mul_succ, runSteps_cmdWrite hb hr hu, hrun, List.replicate_succ', List.append_assoc,
      List.singleton_append]

/-- Settles O20: `runSteps_cmdWrites` from the responses of the idle state, whose agenda is empty before and after. -/
theorem batchesCompleteInOrder : Obligations.BatchesCompleteInOrder := by
  intro ws s hb _ hr ha
  obtain ⟨t, ht, hta, hrun⟩ := runSteps_cmdWrites ws hb hr
  refine ⟨t, ht, (hrun s.responses).trans ?_⟩
  rw [State.withHost, ← hta.trans ha]

end Sys2Proof.Machine

/-! ## Decoding, legality and the match and mask table

A word is legal exactly when the clauses of 30_encoding.md R85 hold of its fields (`LegalAs`), and the fields of a legal
word are those the encoder writes for the command it decodes to. -/

namespace Sys2Proof

/-- The clauses of legal(w) on raw fields, for the opcode o (30_encoding.md R85). -/
structure CW.LegalAs (c : CW) (o : Opcode) : Prop where
  op : o.code = c.op
  f2 : o.uses.f2 = false → c.f2 = 0
  f1 : o.uses.f1 = false → c.f1 = 0
  f0 : o.uses.f0 = false → c.f0 = 0
  sa : c.sa = true → o.uses.sa = true ∧ c.f1 = 0
  sb : c.sb = true → o.uses.sb = true ∧ c.f0 = 0

theorem Opcode.code_injective {o o' : Opcode} (h : o.code = o'.code) : o = o' :=
  Option.some.inj ((opcodeOf_code o).symm.trans (h ▸ opcodeOf_code o'))

theorem ite_some_eq_none {α : Type} {p : Prop} [Decidable p] {a : α} {o : Option α} :
    (if p then some a else o) = none ↔ ¬p ∧ o = none := by
  split <;> simp_all

theorem CW.violation_eq_none {c : CW} {u : Uses} :
    c.violation u = none ↔
      (u.f2 = false → c.f2 = 0) ∧ (u.f1 = false → c.f1 = 0) ∧ (u.f0 = false → c.f0 = 0) ∧
        (c.sa = true → u.sa = true ∧ c.f1 = 0) ∧ (c.sb = true → u.sb = true ∧ c.f0 = 0) := by
  simp only [CW.violation, ite_some_eq_none, Bool.and_eq_true, Bool.not_eq_true', bne_iff_ne, not_and, not_not,
    Bool.not_eq_false, and_true, imp_and, and_assoc, ne_eq]

theorem CW.legalAs_iff {c : CW} {o : Opcode} :
    c.LegalAs o ↔ o.code = c.op ∧ (o.uses.f2 = false → c.f2 = 0) ∧ (o.uses.f1 = false → c.f1 = 0) ∧
      (o.uses.f0 = false → c.f0 = 0) ∧ (c.sa = true → o.uses.sa = true ∧ c.f1 = 0) ∧
      (c.sb = true → o.uses.sb = true ∧ c.f0 = 0) :=
  ⟨fun ⟨hop, hf2, hf1, hf0, hsa, hsb⟩ => ⟨hop, hf2, hf1, hf0, hsa, hsb⟩,
    fun ⟨hop, hf2, hf1, hf0, hsa, hsb⟩ => ⟨hop, hf2, hf1, hf0, hsa, hsb⟩⟩

theorem CW.legalAs_iff_violation {c : CW} {o : Opcode} :
    c.LegalAs o ↔ o.code = c.op ∧ c.violation o.uses = none := by
  rw [CW.legalAs_iff, CW.violation_eq_none]

/-- Decoding answers a command exactly when the clauses of R85 hold for its opcode and it is built from the fields. -/
theorem CW.decode_eq_ok_iff {c : CW} {i : Instr} : c.decode = .ok i ↔ ∃ o, c.LegalAs o ∧ i = o.build c := by
  simp only [CW.legalAs_iff_violation]
  constructor
  · intro h
    obtain ⟨o, ho, hv, rfl⟩ := CW.decode_eq_ok h
    exact ⟨o, ⟨code_of_opcodeOf ho, hv⟩, rfl⟩
  · rintro ⟨o, ⟨hop, hv⟩, rfl⟩
    simp only [CW.decode, ← hop, opcodeOf_code, hv]

theorem Opcode.opcode_build (o : Opcode) (c : CW) : (o.build c).opcode = o := by
  cases o <;> rfl

@[simp] theorem CW.selectBit_srcA (c : CW) : c.srcA.selectBit = c.sa := by
  unfold CW.srcA
  cases c.sa <;> rfl

@[simp] theorem CW.selectBit_srcB (c : CW) : c.srcB.selectBit = c.sb := by
  unfold CW.srcB
  cases c.sb <;> rfl

theorem CW.field_srcA {c : CW} (h : c.sa = true → c.f1 = 0) : c.srcA.field = c.f1 := by
  unfold CW.srcA
  cases hsa : c.sa with
  | false => rfl
  | true => exact (h hsa).symm

theorem CW.field_srcB {c : CW} (h : c.sb = true → c.f0 = 0) : c.srcB.field = c.f0 := by
  unfold CW.srcB
  cases hsb : c.sb with
  | false => rfl
  | true => exact (h hsb).symm

@[simp] theorem Src.srcA_fields (op : BitVec 6) (v : Src) (sb : Bool) (f2 f0 : Byte) :
    CW.srcA ⟨op, v.selectBit, sb, f2, v.field, f0⟩ = v := by
  cases v <;> rfl

@[simp] theorem Src.srcB_fields (op : BitVec 6) (sa : Bool) (v : Src) (f2 f1 : Byte) :
    CW.srcB ⟨op, sa, v.selectBit, f2, f1, v.field⟩ = v := by
  cases v <;> rfl

/-- Building a command from the fields the encoder writes for it gives it back (R84, R89). -/
theorem Instr.build_fields (i : Instr) : i.opcode.build i.fields = i := by
  cases i <;> simp only [Instr.opcode, Instr.fields, Opcode.build, Src.srcA_fields, Src.srcB_fields]

/-- The encoder writes the fields and bits the command's opcode uses, and 0 elsewhere (R89). -/
theorem Opcode.fields_build (o : Opcode) (c : CW) :
    (o.build c).fields =
      ⟨o.code, o.uses.sa && c.sa, o.uses.sb && c.sb, if o.uses.f2 then c.f2 else 0,
        if o.uses.f1 then c.srcA.field else 0, if o.uses.f0 then c.srcB.field else 0⟩ := by
  cases o <;> simp [Opcode.build, Instr.fields, Opcode.uses, Opcode.code]

/-- A field that is 0 where it is unused may be written as 0 there. -/
theorem ite_used_eq {used : Bool} {v : Byte} (h : used = false → v = 0) : (if used then v else 0) = v := by
  cases used with
  | false => exact (h rfl).symm
  | true => rfl

/-- The fields of a legal word are those the encoder writes for its command: R85 leaves no field free. -/
theorem CW.LegalAs.fields_build {c : CW} {o : Opcode} (h : c.LegalAs o) : (o.build c).fields = c := by
  have hsa : (o.uses.sa && c.sa) = c.sa := Bool.and_eq_right_iff_imp.2 fun hc => (h.sa hc).1
  have hsb : (o.uses.sb && c.sb) = c.sb := Bool.and_eq_right_iff_imp.2 fun hc => (h.sb hc).1
  rw [o.fields_build, CW.field_srcA fun hc => (h.sa hc).2, CW.field_srcB fun hc => (h.sb hc).2, h.op, hsa, hsb,
    ite_used_eq h.f2, ite_used_eq h.f1, ite_used_eq h.f0]

theorem Instr.encodedFieldsAreLegal (i : Instr) : Laws.EncodedFieldsAreLegal.Statement i := by
  cases i with
  | nop => exact Laws.EncodedFieldsAreLegal.nop
  | add a b => exact Laws.EncodedFieldsAreLegal.add a b
  | sub a b => exact Laws.EncodedFieldsAreLegal.sub a b
  | mul a b => exact Laws.EncodedFieldsAreLegal.mul a b
  | div a b => exact Laws.EncodedFieldsAreLegal.div a b
  | inv a => exact Laws.EncodedFieldsAreLegal.inv a
  | eval d x => exact Laws.EncodedFieldsAreLegal.eval d x
  | interp n => exact Laws.EncodedFieldsAreLegal.interp n
  | ldc i v => exact Laws.EncodedFieldsAreLegal.ldc i v
  | ldp i x y => exact Laws.EncodedFieldsAreLegal.ldp i x y
  | rdc i => exact Laws.EncodedFieldsAreLegal.rdc i
  | rdpx i => exact Laws.EncodedFieldsAreLegal.rdpx i
  | rdpy i => exact Laws.EncodedFieldsAreLegal.rdpy i
  | clrerr => exact Laws.EncodedFieldsAreLegal.clrerr

theorem Instr.legalAs_fields (i : Instr) : i.fields.LegalAs i.opcode := by
  obtain ⟨hop, hv⟩ := i.encodedFieldsAreLegal
  exact CW.legalAs_iff_violation.2 ⟨hop.symm, hv⟩

theorem Instr.decode_fields (i : Instr) : i.fields.decode = .ok i :=
  CW.decode_eq_ok_iff.2 ⟨i.opcode, i.legalAs_fields, i.build_fields.symm⟩

/-- Settles O1: the word's fields are the ones the encoder wrote, they are legal, and the command is built from them. -/
theorem decodeInvertsEncode : Obligations.DecodeInvertsEncode := fun i =>
  (decode_toWord i.fields).trans i.decode_fields

/-- The only word that decodes to a command is its encoding. -/
theorem encode_of_decode {w : Word} {i : Instr} (h : decode w = .ok i) : encode i = w := by
  obtain ⟨o, ho, rfl⟩ := CW.decode_eq_ok_iff.1 h
  rw [encode, ho.fields_build, CW.toWord_ofWord]

theorem legal_iff_decode {w : Word} : legal w = true ↔ ∃ i, decode w = .ok i := by
  unfold legal
  cases decode w <;> simp [Except.isOk, Except.toBool]

theorem legal_iff_legalAs {w : Word} : legal w = true ↔ ∃ o, (CW.ofWord w).LegalAs o := by
  simp only [legal_iff_decode, decode, CW.decode_eq_ok_iff]
  exact ⟨fun ⟨_, o, ho, _⟩ => ⟨o, ho⟩, fun ⟨o, ho⟩ => ⟨_, o, ho, rfl⟩⟩

/-- Settles O2: the clauses are `LegalAs`, and a word is the encoding of what it decodes to. -/
theorem legalityFollowsTheClauses : Obligations.LegalityFollowsTheClauses := by
  refine ⟨fun w => ?_, fun w w' i h h' => ?_, fun w s h => ?_⟩
  · simp only [legal_iff_legalAs, CW.legalAs_iff]
    rfl
  · rw [← encode_of_decode h, encode_of_decode h']
  · cases hw : decode w with
    | ok i =>
      rw [legal_iff_decode.2 ⟨i, hw⟩] at h
      cases h
    | error e => exact Machine.complete_of_illegal hw s

/-- The bits and fields an opcode does not use are 0: the constant bits of its row in 30_encoding.md R83. -/
structure CW.ZeroOutside (c : CW) (u : Uses) : Prop where
  f2 : u.f2 = false → c.f2 = 0
  f1 : u.f1 = false → c.f1 = 0
  f0 : u.f0 = false → c.f0 = 0
  sa : c.sa = true → u.sa = true
  sb : c.sb = true → u.sb = true

/-- The mask of an unused field, and of a used one. -/
def fieldMask (used : Bool) : Byte := if used then 0x00 else 0xFF

/-- The fields of the mask: the opcode and everything unused. -/
def Uses.mask (u : Uses) : CW := ⟨0x3F, !u.sa, !u.sb, fieldMask u.f2, fieldMask u.f1, fieldMask u.f0⟩

/-- The row of R83 that the opcode map and the "uses" column give. -/
def Opcode.row (o : Opcode) : TableRow := ⟨o, CW.toWord ⟨o.code, false, false, 0, 0, 0⟩, o.uses.mask.toWord⟩

theorem Opcode.row_mem (o : Opcode) : o.row ∈ opcodeTable := by
  cases o <;> decide

/-- The table of R83 is the one derived from the opcode map and the "uses" column (R80, R82). -/
theorem eq_row_of_mem_opcodeTable : ∀ row ∈ opcodeTable, row = row.opcode.row := by
  decide

theorem CW.ofWord_and (w w' : Word) :
    CW.ofWord (w &&& w') =
      ⟨(CW.ofWord w).op &&& (CW.ofWord w').op, (CW.ofWord w).sa && (CW.ofWord w').sa,
        (CW.ofWord w).sb && (CW.ofWord w').sb, (CW.ofWord w).f2 &&& (CW.ofWord w').f2,
        (CW.ofWord w).f1 &&& (CW.ofWord w').f1, (CW.ofWord w).f0 &&& (CW.ofWord w').f0⟩ := by
  simp only [CW.ofWord, BitVec.extractLsb'_and, BitVec.getLsbD_and]

theorem eq_toWord_iff {w : Word} {c : CW} : w = c.toWord ↔ CW.ofWord w = c :=
  ⟨fun h => h ▸ CW.ofWord_toWord c, fun h => h ▸ (CW.toWord_ofWord w).symm⟩

theorem and_opcodeMask (op : BitVec 6) : op &&& 0x3F = op :=
  BitVec.and_allOnes

theorem and_fieldMask_eq_zero {v : Byte} {used : Bool} : v &&& fieldMask used = 0 ↔ (used = false → v = 0) := by
  cases used with
  | false =>
    have h : v &&& fieldMask false = v := BitVec.and_allOnes
    simp [h]
  | true => simp [fieldMask]

theorem Opcode.selects_row {o : Opcode} {w : Word} :
    o.row.selects w = true ↔ o.code = (CW.ofWord w).op ∧ (CW.ofWord w).ZeroOutside o.uses := by
  rw [TableRow.selects, beq_iff_eq, Opcode.row, eq_toWord_iff, CW.ofWord_and, CW.ofWord_toWord]
  simp only [Uses.mask, CW.mk.injEq, and_opcodeMask, and_fieldMask_eq_zero, Bool.and_eq_false_imp, Bool.not_eq_false']
  exact ⟨fun ⟨hop, hsa, hsb, hf2, hf1, hf0⟩ => ⟨hop.symm, hf2, hf1, hf0, hsa, hsb⟩,
    fun ⟨hop, hf2, hf1, hf0, hsa, hsb⟩ => ⟨hop.symm, hsa, hsb, hf2, hf1, hf0⟩⟩

theorem operandSelectOk_iff {w : Word} :
    operandSelectOk w = true ↔
      ((CW.ofWord w).sa = true → (CW.ofWord w).f1 = 0) ∧ ((CW.ofWord w).sb = true → (CW.ofWord w).f0 = 0) := by
  simp only [operandSelectOk, CW.ofWord, Bool.and_eq_true, Bool.or_eq_true, Bool.not_eq_true', ← Bool.not_eq_true,
    beq_iff_eq, ← imp_iff_not_or]

/-- A word is legal as a command of an opcode when the opcode's row selects it and the operand-select constraint
holds. -/
theorem legalAs_iff_selects {w : Word} {o : Opcode} :
    (CW.ofWord w).LegalAs o ↔ o.row.selects w = true ∧ operandSelectOk w = true := by
  rw [Opcode.selects_row, operandSelectOk_iff]
  constructor
  · rintro ⟨hop, hf2, hf1, hf0, hsa, hsb⟩
    exact ⟨⟨hop, hf2, hf1, hf0, fun h => (hsa h).1, fun h => (hsb h).1⟩, fun h => (hsa h).2, fun h => (hsb h).2⟩
  · rintro ⟨⟨hop, hf2, hf1, hf0, hsa, hsb⟩, hA, hB⟩
    exact ⟨hop, hf2, hf1, hf0, fun h => ⟨hsa h, hA h⟩, fun h => ⟨hsb h, hB h⟩⟩

theorem code_of_selects {row : TableRow} (hrow : row ∈ opcodeTable) {w : Word} (h : row.selects w = true) :
    row.opcode.code = (CW.ofWord w).op := by
  rw [eq_row_of_mem_opcodeTable row hrow] at h
  exact (Opcode.selects_row.1 h).1

/-- Settles O3: the rows are the opcodes' (`eq_row_of_mem_opcodeTable`), and a row that selects a word has the word's
opcode, which determines it. -/
theorem tableRowsSelectTheLegalWords : Obligations.TableRowsSelectTheLegalWords := by
  refine ⟨fun w => ?_, fun w i h row hrow => ?_, fun w row hrow row' hrow' h h' => ?_⟩
  · rw [legal_iff_legalAs]
    constructor
    · rintro ⟨o, ho⟩
      obtain ⟨hsel, hok⟩ := legalAs_iff_selects.1 ho
      exact ⟨⟨o.row, o.row_mem, hsel⟩, hok⟩
    · rintro ⟨⟨row, hrow, hsel⟩, hok⟩
      exact ⟨row.opcode, legalAs_iff_selects.2 ⟨eq_row_of_mem_opcodeTable row hrow ▸ hsel, hok⟩⟩
  · obtain ⟨o, ho, rfl⟩ := CW.decode_eq_ok_iff.1 h
    rw [o.opcode_build]
    constructor
    · intro hsel
      exact Opcode.code_injective ((code_of_selects hrow hsel).trans ho.op.symm)
    · rintro rfl
      rw [eq_row_of_mem_opcodeTable row hrow]
      exact (legalAs_iff_selects.1 ho).1
  · have hop : row.opcode = row'.opcode :=
      Opcode.code_injective ((code_of_selects hrow h).trans (code_of_selects hrow' h').symm)
    rw [eq_row_of_mem_opcodeTable row hrow, eq_row_of_mem_opcodeTable row' hrow', hop]

/-- Settles O5: the encoder gives the legal words, and each illegal one breaks a clause of R85. -/
theorem exampleWordsDecode : Obligations.ExampleWordsDecode :=
  ⟨⟨decodeInvertsEncode (.add (.lit 0x57) (.lit 0x83)), decodeInvertsEncode (.mul .r (.lit 0x13)),
    decodeInvertsEncode (.div .r .r), decodeInvertsEncode (.inv (.lit 0x53)), decodeInvertsEncode (.eval 2 (.lit 0x03)),
    decodeInvertsEncode (.eval 2 .r), decodeInvertsEncode (.interp (.lit 3)),
    decodeInvertsEncode (.ldc 0x01 (.lit 0xa7)), decodeInvertsEncode (.ldc 5 .r),
    decodeInvertsEncode (.ldp 2 (.lit 0x03) (.lit 0x9c)), decodeInvertsEncode (.rdpy 255),
    decodeInvertsEncode .clrerr⟩, by decide⟩

end Sys2Proof

namespace Sys2Proof.Machine

theorem operand_srcA (c : CW) (s : State) : operand c.srcA s = if c.sa then s.r else c.f1 := by
  rw [CW.srcA]
  split <;> rfl

theorem operand_srcB (c : CW) (s : State) : operand c.srcB s = if c.sb then s.r else c.f0 := by
  rw [CW.srcB]
  split <;> rfl

theorem firstOperand_build (o : Opcode) (c : CW) :
    firstOperand (o.build c) = if o.uses.f1 then some c.srcA else none := by
  cases o <;> rfl

theorem secondOperand_build (o : Opcode) (c : CW) :
    secondOperand (o.build c) = if o.uses.f0 then some c.srcB else none := by
  cases o <;> rfl

theorem indexOperand_build (o : Opcode) (c : CW) :
    indexOperand (o.build c) = if o.uses.f2 then some c.f2 else none := by
  cases o <;> rfl

/-- Settles O4: the command is built from the fields its opcode uses, whose sources are read as R84 says. -/
theorem operandsFollowTheSelectBits : Obligations.OperandsFollowTheSelectBits := by
  intro w i s h
  obtain ⟨o, -, rfl⟩ := CW.decode_eq_ok_iff.1 h
  simp only [firstOperand_build, secondOperand_build, indexOperand_build, Option.ite_none_right_eq_some,
    Option.some.injEq]
  refine ⟨?_, ?_, ?_⟩
  · rintro _ ⟨-, rfl⟩
    exact operand_srcA _ s
  · rintro _ ⟨-, rfl⟩
    exact operand_srcB _ s
  · rintro _ ⟨-, rfl⟩
    rfl

end Sys2Proof.Machine

/-! ## The assembler reads back the lines of R89

The reader cuts the text of a line (30_encoding.md R88) at exactly the places where its parts were joined, since the
texts of mnemonics and operands hold no blank, comma or semicolon. -/

namespace Sys2Proof.Asm

open Sys2Proof.Machine

/-! ### Texts the reader does not cut -/

/-- A character that ends no part of a line. -/
def solidChar (c : Char) : Bool := !isBlank c && c != ',' && c != ';'

theorem solidChar_iff {c : Char} : solidChar c = true ↔ isBlank c = false ∧ c ≠ ',' ∧ c ≠ ';' := by
  simp [solidChar, and_assoc]

/-- A text that is one part of a line, a mnemonic or an operand. -/
def Solid (t : List Char) : Prop := t ≠ [] ∧ t.all solidChar = true

theorem Solid.mem {t : List Char} (h : Solid t) {c : Char} (hc : c ∈ t) : isBlank c = false ∧ c ≠ ',' ∧ c ≠ ';' :=
  solidChar_iff.1 (List.all_eq_true.1 h.2 c hc)

theorem solid_mnemonicText (o : Opcode) : Solid (mnemonicText o) := by
  cases o <;> exact ⟨List.cons_ne_nil _ _, rfl⟩

theorem solidChar_hexChar : ∀ n < 16, solidChar (hexChar n) = true := by
  decide

theorem hexDigit_hexChar : ∀ n < 16, hexDigit (hexChar n) = some n := by
  decide

theorem highNibble_lt (v : Byte) : v.toNat / 16 < 16 := Nat.div_lt_of_lt_mul v.isLt

theorem lowNibble_lt (v : Byte) : v.toNat % 16 < 16 := Nat.mod_lt _ (by decide)

theorem solid_srcText (a : Src) : Solid (srcText a) := by
  cases a with
  | r => exact ⟨List.cons_ne_nil _ _, rfl⟩
  | lit v =>
    have hhigh := solidChar_hexChar _ (highNibble_lt v)
    have hlow := solidChar_hexChar _ (lowNibble_lt v)
    have hzeroX : solidChar '0' = true ∧ solidChar 'x' = true := ⟨rfl, rfl⟩
    exact ⟨List.cons_ne_nil _ _, by simp [srcText, litText, hhigh, hlow, hzeroX]⟩

/-- A text that `dropComment` and `trim` leave as it is: no comment in it, no blank at its ends. -/
structure Whole (cs : List Char) : Prop where
  head : ∃ c rest, isBlank c = false ∧ cs = c :: rest
  last : ∃ rest c, isBlank c = false ∧ cs = rest ++ [c]
  comment : ∀ c ∈ cs, c ≠ ';'

theorem Solid.whole {t : List Char} (h : Solid t) : Whole t where
  head := by
    obtain ⟨c, rest, rfl⟩ := List.exists_cons_of_ne_nil h.1
    exact ⟨c, rest, (h.mem List.mem_cons_self).1, rfl⟩
  last := ⟨t.dropLast, t.getLast h.1, (h.mem (List.getLast_mem h.1)).1, (List.dropLast_append_getLast h.1).symm⟩
  comment _ hc := (h.mem hc).2.2

/-- Joining two such texts gives such a text, whatever blanks and commas stand between them. -/
theorem Whole.append {t u m : List Char} (ht : Whole t) (hm : ∀ c ∈ m, c ≠ ';') (hu : Whole u) :
    Whole (t ++ m ++ u) where
  head := by
    obtain ⟨c, rest, hc, rfl⟩ := ht.head
    exact ⟨c, rest ++ m ++ u, hc, rfl⟩
  last := by
    obtain ⟨rest, c, hc, rfl⟩ := hu.last
    exact ⟨t ++ m ++ rest, c, hc, (List.append_assoc _ _ _).symm⟩
  comment c hc := by
    simp only [List.mem_append] at hc
    obtain (hc | hc) | hc := hc
    · exact ht.comment c hc
    · exact hm c hc
    · exact hu.comment c hc

theorem Whole.dropComment {cs : List Char} (h : Whole cs) : dropComment cs = cs :=
  List.takeWhile_eq_self_iff.2 fun c hc => bne_iff_ne.2 (h.comment c hc)

theorem trim_eq_rdropWhile (cs : List Char) : trim cs = (cs.dropWhile isBlank).rdropWhile isBlank := rfl

theorem Whole.trim {cs : List Char} (h : Whole cs) : trim cs = cs := by
  have hhead : cs.dropWhile isBlank = cs := by
    obtain ⟨c, rest, hc, rfl⟩ := h.head
    exact List.dropWhile_cons_of_neg (by simp [hc])
  obtain ⟨rest, c, hc, rfl⟩ := h.last
  rw [trim_eq_rdropWhile, hhead, List.rdropWhile_concat_neg _ _ _ (by simp [hc])]

theorem trim_cons_blank (cs : List Char) : trim (' ' :: cs) = trim cs := rfl

/-! ### Reading the operands -/

theorem operandOf_srcText (a : Src) : operandOf (srcText a) = .ok (asmOperand a) := by
  cases a with
  | r => rfl
  | lit v =>
    have hv : hexValue [hexChar (v.toNat / 16), hexChar (v.toNat % 16)] = some v.toNat := by
      simp only [hexValue, hexDigit_hexChar _ (highNibble_lt v), hexDigit_hexChar _ (lowNibble_lt v), Nat.div_add_mod]
    simp only [srcText, litText, operandOf, hv, asmOperand]

theorem splitCommas_ne_nil (cs : List Char) : splitCommas cs ≠ [] := by
  cases cs with
  | nil => exact List.cons_ne_nil _ _
  | cons c cs =>
    rw [splitCommas]
    split
    · exact List.cons_ne_nil _ _
    · split <;> exact List.cons_ne_nil _ _

theorem splitCommas_cons {c : Char} (hc : c ≠ ',') {cs u : List Char} {us : List (List Char)}
    (h : splitCommas cs = u :: us) : splitCommas (c :: cs) = (c :: u) :: us := by
  simp only [splitCommas, if_neg hc, h]

/-- A text without commas stays in one part with what follows it. -/
theorem splitCommas_append {t : List Char} (ht : ∀ c ∈ t, c ≠ ',') {cs u : List Char} {us : List (List Char)}
    (h : splitCommas cs = u :: us) : splitCommas (t ++ cs) = (t ++ u) :: us := by
  induction t with
  | nil => exact h
  | cons c t ih =>
    rw [List.forall_mem_cons] at ht
    exact splitCommas_cons ht.1 (ih ht.2)

theorem operandsOf_cons {t : List Char} {ts : List (List Char)} {o : AsmOperand} {os : List AsmOperand}
    (ht : operandOf (trim t) = .ok o) (hts : operandsOf ts = .ok os) : operandsOf (t :: ts) = .ok (o :: os) := by
  simp only [operandsOf, ht, hts]

theorem operandsOf_splitCommas_blank (cs : List Char) :
    operandsOf (splitCommas (' ' :: cs)) = operandsOf (splitCommas cs) := by
  obtain ⟨u, us, h⟩ := List.exists_cons_of_ne_nil (splitCommas_ne_nil cs)
  rw [splitCommas_cons (by decide) h, h]
  simp only [operandsOf, trim_cons_blank]

/-- The texts of operands, separated by commas (30_encoding.md R88). -/
def operandsText (as : List Src) : List Char := List.intercalate [',', ' '] (as.map srcText)

theorem operandsText_singleton (a : Src) : operandsText [a] = srcText a := List.intercalate_singleton

theorem operandsText_cons_cons (a b : Src) (as : List Src) :
    operandsText (a :: b :: as) = srcText a ++ [',', ' '] ++ operandsText (b :: as) := List.intercalate_cons_cons

theorem whole_operandsText (a : Src) (as : List Src) : Whole (operandsText (a :: as)) := by
  induction as generalizing a with
  | nil => exact operandsText_singleton a ▸ (solid_srcText a).whole
  | cons b as ih =>
    rw [operandsText_cons_cons]
    exact (solid_srcText a).whole.append (by simp) (ih b)

theorem operandsOf_operandsText (a : Src) (as : List Src) :
    operandsOf (splitCommas (operandsText (a :: as))) = .ok ((a :: as).map asmOperand) := by
  have hcomma (a : Src) : ∀ c ∈ srcText a, c ≠ ',' := fun c hc => ((solid_srcText a).mem hc).2.1
  have hread (a : Src) : operandOf (trim (srcText a ++ [])) = .ok (asmOperand a) := by
    rw [List.append_nil, (solid_srcText a).whole.trim, operandOf_srcText]
  induction as generalizing a with
  | nil =>
    have hsplit : splitCommas (srcText a ++ []) = [srcText a ++ []] := splitCommas_append (hcomma a) rfl
    rw [operandsText_singleton, ← List.append_nil (srcText a), hsplit]
    exact operandsOf_cons (hread a) rfl
  | cons b as ih =>
    have hsplit : splitCommas (srcText a ++ ',' :: ' ' :: operandsText (b :: as)) =
        (srcText a ++ []) :: splitCommas (' ' :: operandsText (b :: as)) := splitCommas_append (hcomma a) rfl
    rw [operandsText_cons_cons, List.append_assoc, List.cons_append, List.cons_append, List.nil_append, hsplit]
    exact operandsOf_cons (hread a) ((operandsOf_splitCommas_blank _).trans (ih b))

theorem operandPart_operandsText (a : Src) (as : List Src) :
    operandPart (operandsText (a :: as)) = .ok ((a :: as).map asmOperand) := by
  obtain ⟨c, rest, -, h⟩ := (whole_operandsText a as).head
  rw [← operandsOf_operandsText, h, operandPart]
  exact List.cons_ne_nil _ _

/-! ### Reading a line -/

theorem mnemonicOf_mnemonicText (o : Opcode) : mnemonicOf (mnemonicText o) = some (.core o) := by
  cases o <;> rfl

/-- A line is read as its mnemonic, which ends at the first blank, and the operands in the rest. -/
theorem parseLine_mnemonicText_append {o : Opcode} {rest : List Char} {os : List AsmOperand}
    (hwhole : Whole (mnemonicText o ++ rest)) (htake : rest.takeWhile (fun c => !isBlank c) = [])
    (hdrop : rest.dropWhile (fun c => !isBlank c) = rest) (hos : operandPart (trim rest) = .ok os) :
    parseLine (mnemonicText o ++ rest) = .ok ⟨.core o, os⟩ := by
  have hsolid : ∀ c ∈ mnemonicText o, (!isBlank c) = true := fun c hc => by
    simp [((solid_mnemonicText o).mem hc).1]
  simp only [parseLine, hwhole.dropComment, hwhole.trim, List.takeWhile_append_of_pos hsolid,
    List.dropWhile_append_of_pos hsolid, htake, hdrop, List.append_nil, mnemonicOf_mnemonicText, hos]

theorem parseLine_syntaxText {m : String} {o : Opcode} (hm : m.toList = mnemonicText o) (as : List Src) :
    parseLine (syntaxText m as) = .ok ⟨.core o, as.map asmOperand⟩ := by
  have hmnemonic := (solid_mnemonicText o).whole
  cases as with
  | nil =>
    rw [syntaxText, hm, ← List.append_nil (mnemonicText o)]
    exact parseLine_mnemonicText_append ((List.append_nil (mnemonicText o)).symm ▸ hmnemonic) rfl rfl rfl
  | cons a as =>
    have hoperands := whole_operandsText a as
    have hpart : operandPart (trim (' ' :: operandsText (a :: as))) = .ok ((a :: as).map asmOperand) := by
      rw [trim_cons_blank, hoperands.trim, operandPart_operandsText]
    have hwhole : Whole (mnemonicText o ++ ' ' :: operandsText (a :: as)) := by
      rw [← List.singleton_append, ← List.append_assoc]
      exact hmnemonic.append (by simp) hoperands
    rw [syntaxText, hm]
    exact parseLine_mnemonicText_append hwhole rfl rfl hpart

end Sys2Proof.Asm

/-! ## The command and the word of a line -/

namespace Sys2Proof.Asm

open Sys2Proof.Machine

/-! ### The checks of a line's operands -/

theorem checkOperands_eq_none {ks : List OperandKind} {os : List AsmOperand} :
    checkOperands ks os = none ↔ List.Forall₂ (fun k o => k.check o = none) ks os := by
  induction ks generalizing os with
  | nil => cases os <;> simp [checkOperands]
  | cons k ks ih =>
    cases os with
    | nil => simp [checkOperands]
    | cons o os =>
      rw [List.forall₂_cons, ← ih, checkOperands]
      cases k.check o <;> simp

theorem check_lit {k : OperandKind} {v : Nat} : k.check (.lit v) = none ↔ v ≤ 255 := by
  cases k <;> simp [OperandKind.check]

@[simp] theorem check_value_asmOperand (a : Src) : OperandKind.value.check (asmOperand a) = none := by
  cases a with
  | r => rfl
  | lit v => exact check_lit.2 (Nat.le_of_lt_succ v.isLt)

@[simp] theorem check_literal_asmOperand (v : Byte) : OperandKind.literal.check (asmOperand (.lit v)) = none :=
  check_lit.2 (Nat.le_of_lt_succ v.isLt)

theorem instrOf_error_of_check {l : AsmLine} (h : l.check ≠ none) : ∃ e, instrOf l = .error e := by
  obtain ⟨e, he⟩ := Option.ne_none_iff_exists'.1 h
  exact ⟨e, by rw [instrOf, he]⟩

theorem instrOf_of_check {l : AsmLine} (h : l.check = none) : instrOf l = expand l.op l.operands := by
  rw [instrOf, h]

/-- In a line that passes its check, every operand stands at a position where it may. -/
theorem operand_allowed {l : AsmLine} (h : l.check = none) {n : Nat} {o : AsmOperand} (ho : l.operands[n]? = some o) :
    ∃ k, l.op.shape[n]? = some k ∧ k.check o = none := by
  obtain ⟨hlen, hpos⟩ := List.forall₂_iff_get.1 (checkOperands_eq_none.1 h)
  obtain ⟨hn, rfl⟩ := List.getElem?_eq_some_iff.1 ho
  have hn' : n < l.op.shape.length := hlen ▸ hn
  exact ⟨_, List.getElem?_eq_getElem hn', hpos n hn' hn⟩

theorem instrOf_wrongOperandCount {l : AsmLine} (h : l.operands.length ≠ l.op.shape.length) :
    ∃ e, instrOf l = .error e :=
  instrOf_error_of_check fun hc => h (checkOperands_eq_none.1 hc).length_eq.symm

theorem instrOf_literalTooLarge {l : AsmLine} {v : Nat} (hmem : AsmOperand.lit v ∈ l.operands) (hv : 255 < v) :
    ∃ e, instrOf l = .error e :=
  instrOf_error_of_check fun hc => by
    obtain ⟨n, hn⟩ := List.mem_iff_getElem?.1 hmem
    obtain ⟨k, -, hk⟩ := operand_allowed hc hn
    exact Nat.not_le_of_lt hv (check_lit.1 hk)

theorem instrOf_registerNotAllowed {l : AsmLine} {n : Nat} (hkind : l.op.shape[n]? = some .literal)
    (hreg : l.operands[n]? = some .r) : ∃ e, instrOf l = .error e :=
  instrOf_error_of_check fun hc => by
    obtain ⟨k, hk, hcheck⟩ := operand_allowed hc hreg
    obtain rfl := Option.some.inj (hkind.symm.trans hk)
    cases hcheck

/-! ### Commands and their lines -/

@[simp] theorem byteOf_asmOperand (v : Byte) : byteOf (asmOperand (.lit v)) = v := by
  simp [byteOf, asmOperand]

@[simp] theorem srcOf_asmOperand (a : Src) : srcOf (asmOperand a) = a := by
  cases a with
  | r => rfl
  | lit v => exact congrArg Src.lit (byteOf_asmOperand v)

/-- The operands of a command's line, in the order F2, F1, F0 (30_encoding.md R89). -/
def lineOperands : Instr → List Src
  | .nop | .clrerr => []
  | .add a b | .sub a b | .mul a b | .div a b => [a, b]
  | .inv a | .interp a => [a]
  | .eval d x => [.lit d, x]
  | .ldc i v => [.lit i, v]
  | .ldp i x y => [.lit i, x, y]
  | .rdc i | .rdpx i | .rdpy i => [.lit i]

/-- The line of a command. -/
def lineOf (i : Instr) : AsmLine := ⟨.core i.opcode, (lineOperands i).map asmOperand⟩

theorem check_lineOf (i : Instr) : (lineOf i).check = none := by
  rw [AsmLine.check, checkOperands_eq_none]
  cases i <;> simp [lineOf, lineOperands, Instr.opcode, AsmOp.shape]

theorem instrOf_lineOf (i : Instr) : instrOf (lineOf i) = .ok i := by
  rw [instrOf_of_check (check_lineOf i)]
  cases i <;> simp [lineOf, lineOperands, Instr.opcode, expand]

theorem assemble_syntaxText (i : Instr) {m : String} (hm : m.toList = mnemonicText i.opcode) :
    assemble (syntaxText m (lineOperands i)) = .ok (encode i) := by
  have hline : parseLine (syntaxText m (lineOperands i)) = .ok (lineOf i) := parseLine_syntaxText hm _
  simp only [assemble, hline, instrOf_lineOf]

/-- Every command's line, with its operands in the order F2, F1, F0, stands for it and assembles to its encoding. -/
theorem syntaxGives (i : Instr) {m : String} {w : Word} (hm : m.toList = mnemonicText i.opcode) (hw : encode i = w) :
    SyntaxGives m i.opcode (lineOperands i) i w :=
  ⟨congrArg Option.isNone (check_lineOf i), instrOf_lineOf i, hw, hw ▸ assemble_syntaxText i hm⟩

/-! ### The disassembler -/

theorem operandTexts_eq (i : Instr) : operandTexts i = (lineOperands i).map srcText := by
  cases i <;> rfl

theorem append_moreOperands (t : List Char) (ts : List (List Char)) :
    t ++ moreOperands ts = List.intercalate [',', ' '] (t :: ts) := by
  induction ts generalizing t with
  | nil => rw [List.intercalate_singleton, moreOperands, List.append_nil]
  | cons u ts ih =>
    rw [List.intercalate_cons_cons, ← ih, moreOperands]
    simp only [List.append_assoc, List.cons_append, List.nil_append]

/-- The disassembler writes the line of R89. -/
theorem lineText_eq_syntaxText (i : Instr) :
    lineText i = syntaxText (String.ofList (mnemonicText i.opcode)) (lineOperands i) := by
  rw [lineText, operandTexts_eq]
  cases lineOperands i with
  | nil => exact String.toList_ofList.symm
  | cons a as =>
    rw [syntaxText, String.toList_ofList, List.map_cons, ← append_moreOperands]
    simp

theorem assemble_lineText (i : Instr) : assemble (lineText i) = .ok (encode i) := by
  rw [lineText_eq_syntaxText, assemble_syntaxText i String.toList_ofList]

/-- Settles O56: the disassembly is the line of the command the word decodes to, whose encoding is the word. -/
theorem assembleInvertsDisassemble : Obligations.AssembleInvertsDisassemble := by
  intro w hw
  obtain ⟨i, hi⟩ := legal_iff_decode.1 hw
  rw [disassemble, hi]
  exact (assemble_lineText i).trans (congrArg Except.ok (encode_of_decode hi))

/-! ### The words of R89 -/

/-- The fields of R89 put together are its formula. -/
theorem toWord_eq_syntaxWord (op : BitVec 6) (idx : Byte) (a b : Src) :
    CW.toWord ⟨op, a.selectBit, b.selectBit, idx, a.field, b.field⟩ = syntaxWord (op.setWidth 32) idx a b := by
  cases a <;> cases b <;> rfl

theorem legal_encode (i : Instr) : legal (encode i) = true := legal_iff_decode.2 ⟨i, decodeInvertsEncode i⟩

/-- What assembles is the encoding of a command. -/
theorem encode_of_assemble {text : List Char} {w : Word} (h : assemble text = .ok w) : ∃ i, encode i = w := by
  unfold assemble at h
  split at h
  · cases h
  · split at h
    · cases h
    · exact ⟨_, Except.ok.inj h⟩

/-- Settles O57: one line per command (`syntaxGives`), a word of the assembler is an encoding, and a line whose operands
fail a check of their positions is rejected. -/
theorem assemblerFollowsTheSyntax : Obligations.AssemblerFollowsTheSyntax := by
  refine ⟨syntaxGives .nop rfl rfl,
    fun a b => syntaxGives (.add a b) rfl (toWord_eq_syntaxWord 0x01 0 a b),
    fun a b => syntaxGives (.sub a b) rfl (toWord_eq_syntaxWord 0x02 0 a b),
    fun a b => syntaxGives (.mul a b) rfl (toWord_eq_syntaxWord 0x03 0 a b),
    fun a b => syntaxGives (.div a b) rfl (toWord_eq_syntaxWord 0x04 0 a b),
    fun a => syntaxGives (.inv a) rfl (toWord_eq_syntaxWord 0x05 0 a (.lit 0)),
    fun d x => syntaxGives (.eval d x) rfl (toWord_eq_syntaxWord 0x06 d x (.lit 0)),
    fun n => syntaxGives (.interp n) rfl (toWord_eq_syntaxWord 0x07 0 n (.lit 0)),
    fun i v => syntaxGives (.ldc i v) rfl (toWord_eq_syntaxWord 0x08 i (.lit 0) v),
    fun i x y => syntaxGives (.ldp i x y) rfl (toWord_eq_syntaxWord 0x09 i x y),
    fun i => syntaxGives (.rdc i) rfl (toWord_eq_syntaxWord 0x0A i (.lit 0) (.lit 0)),
    fun i => syntaxGives (.rdpx i) rfl (toWord_eq_syntaxWord 0x0B i (.lit 0) (.lit 0)),
    fun i => syntaxGives (.rdpy i) rfl (toWord_eq_syntaxWord 0x0C i (.lit 0) (.lit 0)),
    syntaxGives .clrerr rfl rfl, fun text w h => ?_, fun l => instrOf_wrongOperandCount,
    fun l v => instrOf_literalTooLarge, fun l k => instrOf_registerNotAllowed⟩
  obtain ⟨i, rfl⟩ := encode_of_assemble h
  exact legal_encode i

/-! ### The pseudo-instructions -/

/-- A pseudo-instruction with one operand expands where its operand may stand. -/
theorem instrOf_singleton {op : AsmOp} {k : OperandKind} {o : AsmOperand} (hshape : op.shape = [k])
    (ho : k.check o = none) : instrOf ⟨op, [o]⟩ = expand op [o] := by
  refine instrOf_of_check (checkOperands_eq_none.2 ?_)
  rw [hshape]
  exact .cons ho .nil

theorem gfAdd_zero (a : Byte) : gfAdd a 0 = a := BitVec.xor_zero

theorem gfSub_zero_left (a : Byte) : gfSub 0 a = a := BitVec.zero_xor

theorem exec_add_zero (a : Src) (s : State) :
    exec (.add a (.lit 0)) s = .next { s.completed with r := operand a s } := by
  calc exec (.add a (.lit 0)) s = .next { s.completed with r := gfAdd (operand a s) 0 } := rfl
    _ = .next { s.completed with r := operand a s } := by rw [gfAdd_zero]

theorem exec_sub_from_zero (a : Src) (s : State) :
    exec (.sub (.lit 0) a) s = .next { s.completed with r := operand a s } := by
  calc exec (.sub (.lit 0) a) s = .next { s.completed with r := gfSub 0 (operand a s) } := rfl
    _ = .next { s.completed with r := operand a s } := by rw [gfSub_zero_left]

/-- Settles O58: each pseudo-instruction passes its check and expands as R91 says; adding to 0 or subtracting from 0
copies, and LDCR's value is read back from the entry it wrote. -/
theorem pseudoInstructionsExpand : Obligations.PseudoInstructionsExpand := by
  refine fun s => ⟨fun v hv => ?mov, ?clrr, fun a ha => ⟨?neg, ?sqr⟩, fun k hk => ?ldcr⟩
  case mov => exact ⟨_, instrOf_singleton rfl (check_lit.2 hv), rfl, exec_add_zero _ s⟩
  case clrr => exact ⟨_, rfl, rfl, exec_add_zero (.lit 0) s⟩
  case neg => exact ⟨_, instrOf_singleton rfl ha, rfl, exec_sub_from_zero _ s⟩
  case sqr => exact ⟨_, instrOf_singleton rfl ha, rfl, rfl⟩
  case ldcr =>
    exact ⟨_, instrOf_singleton rfl (check_lit.2 hk), rfl, _, rfl, fun hwf => Memory.read_write_same hwf _ _⟩

end Sys2Proof.Asm

/-! ## Bitmasks as polynomials over GF(2)

A natural number is read as the polynomial whose coefficient of x^k is its bit k (40_field_arith.md R113 to R115).
Mathlib's Boolean ring `Bool`, whose sum is xor and whose product is and, is the field of two elements, so `polyMul` is
the product and `polyDivmod` the division of `Bool[X]`. -/

namespace Sys2Proof.Machine

open Polynomial (X C monomial)
open scoped Polynomial

/-- The polynomial of a bitmask. -/
noncomputable def bitPoly (p : Nat) : Bool[X] := ∑ k ∈ Finset.range (p.log2 + 1), monomial k (p.testBit k)

theorem testBit_of_log2_lt {p k : Nat} (h : p.log2 < k) : p.testBit k = false :=
  Nat.testBit_lt_two_pow (Nat.lt_log2_self.trans_le (Nat.pow_le_pow_right two_pos h))

@[simp] theorem coeff_bitPoly (p k : Nat) : (bitPoly p).coeff k = p.testBit k := by
  simp only [bitPoly, Polynomial.finsetSum_coeff, Polynomial.coeff_monomial, Finset.sum_ite_eq', Finset.mem_range]
  split
  · rfl
  · exact (testBit_of_log2_lt (by omega)).symm

theorem bitPoly_injective : Function.Injective bitPoly := fun p q h =>
  Nat.eq_of_testBit_eq fun k => by rw [← coeff_bitPoly, h, coeff_bitPoly]

@[simp] theorem bitPoly_zero : bitPoly 0 = 0 := by
  ext k
  rw [coeff_bitPoly, Nat.zero_testBit]
  rfl

theorem bitPoly_eq_zero {p : Nat} : bitPoly p = 0 ↔ p = 0 := by
  rw [← bitPoly_zero, bitPoly_injective.eq_iff]

theorem bitPoly_xor (p q : Nat) : bitPoly (p ^^^ q) = bitPoly p + bitPoly q := by
  ext k
  rw [Polynomial.coeff_add, coeff_bitPoly, coeff_bitPoly, coeff_bitPoly, Nat.testBit_xor]
  rfl

/-- Addition and subtraction coincide in characteristic 2 (40_field_arith.md R110). -/
theorem bitPoly_xor_eq_sub (p q : Nat) : bitPoly (p ^^^ q) = bitPoly p - bitPoly q := by
  ext k
  rw [Polynomial.coeff_sub, coeff_bitPoly, coeff_bitPoly, coeff_bitPoly, Nat.testBit_xor]
  rfl

theorem bitPoly_shiftLeft (p k : Nat) : bitPoly (p <<< k) = bitPoly p * X ^ k := by
  ext n
  rw [Polynomial.coeff_mul_X_pow', coeff_bitPoly, coeff_bitPoly, Nat.testBit_shiftLeft]
  by_cases h : k ≤ n
  · rw [if_pos h, decide_eq_true h, Bool.true_and]
  · rw [if_neg h, decide_eq_false h, Bool.false_and]
    rfl

theorem bitPoly_eq_divX (p : Nat) : bitPoly p = bitPoly (p >>> 1) * X + C (p.testBit 0) := by
  have hdivX : bitPoly (p >>> 1) = (bitPoly p).divX := by
    ext k
    rw [Polynomial.coeff_divX, coeff_bitPoly, coeff_bitPoly, Nat.testBit_shiftRight, add_comm]
  rw [hdivX, ← coeff_bitPoly, Polynomial.divX_mul_X_add]

@[simp] theorem bitPoly_one : bitPoly 1 = 1 := by
  rw [bitPoly_eq_divX, Nat.shiftRight_one, bitPoly_zero, zero_mul, zero_add]
  rfl

/-! ### The degree -/

@[simp] theorem degree_zero : degree 0 = -1 := rfl

theorem degree_of_ne_zero {p : Nat} (h : p ≠ 0) : degree p = p.log2 := if_neg h

theorem neg_one_le_degree (p : Nat) : -1 ≤ degree p := by
  unfold degree
  split <;> omega

theorem degree_nonneg {p : Nat} (h : p ≠ 0) : 0 ≤ degree p := by
  rw [degree_of_ne_zero h]
  exact Int.natCast_nonneg _

theorem natDegree_bitPoly (p : Nat) : (bitPoly p).natDegree = p.log2 := by
  rcases eq_or_ne p 0 with rfl | h
  · rw [bitPoly_zero, Polynomial.natDegree_zero, Nat.log2_zero]
  · refine Polynomial.natDegree_eq_of_le_of_coeff_ne_zero
      (Polynomial.natDegree_le_iff_coeff_eq_zero.2 fun k hk => ?_) ?_
    · rw [coeff_bitPoly, testBit_of_log2_lt hk]
      rfl
    · rw [coeff_bitPoly, Nat.testBit_log2 h]
      exact one_ne_zero

/-- The only nonzero leading coefficient is 1. -/
theorem monic_bitPoly {p : Nat} (h : p ≠ 0) : (bitPoly p).Monic := by
  rw [Polynomial.Monic, Polynomial.leadingCoeff, natDegree_bitPoly, coeff_bitPoly, Nat.testBit_log2 h]
  rfl

theorem degree_bitPoly {p : Nat} (h : p ≠ 0) : (bitPoly p).degree = p.log2 := by
  rw [Polynomial.degree_eq_natDegree (mt bitPoly_eq_zero.1 h), natDegree_bitPoly]

theorem degree_bitPoly_lt_iff {p q : Nat} : (bitPoly p).degree < (bitPoly q).degree ↔ degree p < degree q := by
  rcases eq_or_ne q 0 with rfl | hq
  · simp [neg_one_le_degree]
  rcases eq_or_ne p 0 with rfl | hp
  · have hbot : (bitPoly 0).degree < (bitPoly q).degree := by
      rw [bitPoly_zero, Polynomial.degree_zero, degree_bitPoly hq]
      exact WithBot.bot_lt_coe _
    exact iff_of_true hbot (neg_one_lt_zero.trans_le (degree_nonneg hq))
  · rw [degree_bitPoly hp, degree_bitPoly hq, degree_of_ne_zero hp, degree_of_ne_zero hq, Nat.cast_lt, Nat.cast_lt]

/-- Settles O38: the highest set bit is the bit log2. -/
theorem degreeIsTheHighestSetBit : Obligations.DegreeIsTheHighestSetBit := by
  refine ⟨rfl, fun p hp => ⟨p.log2, degree_of_ne_zero hp, Nat.testBit_log2 hp, fun _ => testBit_of_log2_lt⟩,
    fun p hp => ⟨neg_one_le_degree p, ?_⟩⟩
  rcases eq_or_ne p 0 with rfl | h
  · decide
  · have hlog : p.log2 < 16 := (Nat.log2_lt h).2 hp
    rw [degree_of_ne_zero h]
    omega

/-! ### The product -/

theorem bitPoly_polyMul (a b : Nat) : bitPoly (polyMul a b) = bitPoly a * bitPoly b := by
  have upTo : ∀ n, bitPoly ((List.range n).foldl (fun acc k => if b.testBit k then acc ^^^ (a <<< k) else acc) 0) =
      bitPoly a * ∑ k ∈ Finset.range n, monomial k (b.testBit k) := by
    intro n
    induction n with
    | zero => exact bitPoly_zero.trans (mul_zero _).symm
    | succ n ih =>
      rw [List.range_succ, List.foldl_append, Finset.sum_range_succ, mul_add, ← ih, List.foldl_cons, List.foldl_nil]
      cases b.testBit n with
      | false => simp [Polynomial.monomial_zero_right, ← Bool.zero_eq_false]
      | true =>
        rw [if_pos rfl, bitPoly_xor, bitPoly_shiftLeft, Polynomial.X_pow_eq_monomial]
        rfl
  exact upTo _

/-- Settles O39: the bits of a product are the coefficients of the product of polynomials, and degrees of monic
polynomials add. -/
theorem polyMulIsTheCarryLessProduct : Obligations.PolyMulIsTheCarryLessProduct := by
  refine ⟨fun a b n => ?_, fun a b ha hb => ?_, fun a b h => ?_⟩
  · rw [← coeff_bitPoly, bitPoly_polyMul, mul_comm, Polynomial.coeff_mul]
    simp only [coeff_bitPoly]
    exact Finset.Nat.sum_antidiagonal_eq_sum_range_succ (fun i j => b.testBit i * a.testBit j) n
  · have hdeg := (monic_bitPoly ha).natDegree_mul (monic_bitPoly hb)
    have hne : polyMul a b ≠ 0 := by
      rw [← bitPoly_eq_zero.ne, bitPoly_polyMul]
      exact ((monic_bitPoly ha).mul (monic_bitPoly hb)).ne_zero
    rw [← bitPoly_polyMul, natDegree_bitPoly, natDegree_bitPoly, natDegree_bitPoly] at hdeg
    rw [degree_of_ne_zero hne, degree_of_ne_zero ha, degree_of_ne_zero hb, hdeg, Nat.cast_add]
  · rw [← bitPoly_eq_zero, bitPoly_polyMul]
    rcases h with rfl | rfl
    · rw [bitPoly_zero, zero_mul]
    · rw [bitPoly_zero, mul_zero]

/-! ### Long division -/

/-- One step of long division takes the leading bit off the dividend. -/
theorem degree_xor_shiftLeft_lt {a b : Nat} (ha : a ≠ 0) (hb : b ≠ 0) (h : degree b ≤ degree a) :
    degree (a ^^^ (b <<< (a.log2 - b.log2))) < degree a := by
  have hlog : b.log2 ≤ a.log2 := by
    rw [degree_of_ne_zero ha, degree_of_ne_zero hb] at h
    exact Int.ofNat_le.1 h
  have hmonic : (bitPoly b * X ^ (a.log2 - b.log2)).Monic := (monic_bitPoly hb).mul (Polynomial.monic_X_pow _)
  have hdeg : (bitPoly a).degree = (bitPoly b * X ^ (a.log2 - b.log2)).degree := by
    rw [Polynomial.degree_mul_X_pow, degree_bitPoly ha, degree_bitPoly hb, ← Nat.cast_add, Nat.add_sub_cancel' hlog]
  rw [← degree_bitPoly_lt_iff, bitPoly_xor_eq_sub, bitPoly_shiftLeft]
  exact Polynomial.degree_sub_lt_left hdeg (monic_bitPoly ha).ne_zero ((monic_bitPoly ha).trans hmonic.symm)

theorem testBit_or_shiftLeft {s j : Nat} (q : Nat) (h : s ≠ j) : (q ||| (1 <<< s)).testBit j = q.testBit j := by
  rw [Nat.testBit_or, Nat.one_shiftLeft, Nat.testBit_two_pow_of_ne h, Bool.or_false]

/-- Setting a bit that is not set adds its power of x. -/
theorem bitPoly_or_shiftLeft {q s : Nat} (h : q.testBit s = false) : bitPoly (q ||| (1 <<< s)) = bitPoly q + X ^ s := by
  have hxor : q ||| (1 <<< s) = q ^^^ (1 <<< s) := Nat.eq_of_testBit_eq fun k => by
    rw [Nat.testBit_or, Nat.testBit_xor, Nat.one_shiftLeft]
    rcases eq_or_ne s k with rfl | hk
    · rw [h, Bool.false_or, Bool.false_xor]
    · rw [Nat.testBit_two_pow_of_ne hk, Bool.or_false, Bool.xor_false]
  rw [hxor, bitPoly_xor, bitPoly_shiftLeft, bitPoly_one, one_mul]

/-- The loop of R115, with fuel above the degree of the dividend and no quotient bit set that is still to come, keeps
dividend + divisor * quotient and ends with a remainder. -/
theorem polyDivmodLoop_spec {b : Nat} (hb : b ≠ 0) (n : Nat) {a q : Nat} (ha : degree a < n)
    (hq : ∀ j : Nat, j + degree b ≤ degree a → q.testBit j = false) :
    bitPoly (polyDivmodLoop n a b q).2 + bitPoly b * bitPoly (polyDivmodLoop n a b q).1 =
        bitPoly a + bitPoly b * bitPoly q ∧
      degree (polyDivmodLoop n a b q).2 < degree b := by
  have hdegb := degree_nonneg hb
  induction n generalizing a q with
  | zero => exact ⟨rfl, ha.trans_le hdegb⟩
  | succ n ih =>
    by_cases h : a ≠ 0 ∧ degree b ≤ degree a
    · obtain ⟨ha0, hle⟩ := h
      have hlt := degree_xor_shiftLeft_lt ha0 hb hle
      have hs : ((a.log2 - b.log2 : Nat) : Int) + degree b = degree a := by
        rw [degree_of_ne_zero ha0, degree_of_ne_zero hb] at hle ⊢
        omega
      rw [polyDivmodLoop, if_pos ⟨ha0, hle⟩]
      obtain ⟨heq, hrem⟩ := ih (a := a ^^^ (b <<< (a.log2 - b.log2))) (q := q ||| (1 <<< (a.log2 - b.log2)))
        (by omega) fun j hj => (testBit_or_shiftLeft q (by omega)).trans (hq j (by omega))
      refine ⟨heq.trans ?_, hrem⟩
      rw [bitPoly_xor_eq_sub, bitPoly_shiftLeft, bitPoly_or_shiftLeft (hq _ hs.le)]
      ring
    · have hrem : degree a < degree b := by
        rcases eq_or_ne a 0 with rfl | ha0
        · rw [degree_zero]; omega
        · exact not_le.1 fun hle => h ⟨ha0, hle⟩
      rw [polyDivmodLoop, if_neg h]
      exact ⟨rfl, hrem⟩

/-- A quotient and a remainder of bitmasks are those of `Bool[X]`. -/
theorem bitPoly_divMod {a b q r : Nat} (hb : b ≠ 0) (h : bitPoly r + bitPoly b * bitPoly q = bitPoly a)
    (hr : degree r < degree b) : bitPoly a /ₘ bitPoly b = bitPoly q ∧ bitPoly a %ₘ bitPoly b = bitPoly r :=
  Polynomial.div_modByMonic_unique _ _ (monic_bitPoly hb) ⟨h, degree_bitPoly_lt_iff.2 hr⟩

theorem polyDivmod_spec (a : Nat) {b : Nat} (hb : b ≠ 0) :
    bitPoly (polyDivmod a b).2 + bitPoly b * bitPoly (polyDivmod a b).1 = bitPoly a ∧
      degree (polyDivmod a b).2 < degree b := by
  have hfuel : degree a < (a.log2 + 1 : Nat) := by
    unfold degree
    split <;> omega
  obtain ⟨heq, hrem⟩ := polyDivmodLoop_spec hb _ hfuel (q := 0) fun j _ => Nat.zero_testBit j
  rw [bitPoly_zero, mul_zero, add_zero] at heq
  exact ⟨heq, hrem⟩

theorem bitPoly_polyDivmod_snd (a : Nat) {b : Nat} (hb : b ≠ 0) :
    bitPoly (polyDivmod a b).2 = bitPoly a %ₘ bitPoly b := by
  obtain ⟨heq, hrem⟩ := polyDivmod_spec a hb
  exact (bitPoly_divMod hb heq hrem).2.symm

theorem eq_polyMul_xor_iff {a b q r : Nat} :
    a = polyMul q b ^^^ r ↔ bitPoly r + bitPoly b * bitPoly q = bitPoly a := by
  rw [← bitPoly_injective.eq_iff, bitPoly_xor, bitPoly_polyMul, eq_comm, add_comm, mul_comm]

/-- Settles O40: the loop divides (`polyDivmodLoop_spec`), and division by a monic polynomial is unique. -/
theorem polyDivmodIsLongDivision : Obligations.PolyDivmodIsLongDivision := by
  intro a b hb
  obtain ⟨heq, hrem⟩ := polyDivmod_spec a hb
  refine ⟨⟨eq_polyMul_xor_iff.2 heq, hrem⟩, fun q r h hr => ?_⟩
  obtain ⟨hdiv, hmod⟩ := bitPoly_divMod hb heq hrem
  obtain ⟨hdiv', hmod'⟩ := bitPoly_divMod hb (eq_polyMul_xor_iff.1 h) hr
  exact Prod.ext (bitPoly_injective (hdiv'.symm.trans hdiv)) (bitPoly_injective (hmod'.symm.trans hmod))

end Sys2Proof.Machine

/-! ## The field of CORE

A byte stands for its residue class in GF(2)[x] / (x^8+x^4+x^3+x+1) (40_field_arith.md R110, R112). The map is one to
one and turns `gfAdd` and `gfMul` into the sum and the product of a commutative ring, which gives the laws of R131 to
R133. -/

namespace Sys2Proof.Machine

open Polynomial (C)

/-- GF(2)[x] / (x^8+x^4+x^3+x+1). -/
abbrev ResidueRing : Type := AdjoinRoot (bitPoly Config.modulus)

/-- The residue class of a bitmask. -/
noncomputable def residue (p : Nat) : ResidueRing := AdjoinRoot.mk _ (bitPoly p)

/-- The field element a byte stands for. -/
noncomputable def fieldElem (a : Byte) : ResidueRing := residue a.toNat

theorem modulus_ne_zero : Config.modulus ≠ 0 := by decide

theorem residue_eq_iff {p q : Nat} :
    residue p = residue q ↔ bitPoly p %ₘ bitPoly Config.modulus = bitPoly q %ₘ bitPoly Config.modulus := by
  have hM := monic_bitPoly modulus_ne_zero
  rw [residue, residue, AdjoinRoot.mk_eq_mk, ← Polynomial.modByMonic_eq_zero_iff_dvd hM, Polynomial.sub_modByMonic,
    sub_eq_zero]

theorem bitPoly_byte_mod (a : Byte) : bitPoly a.toNat %ₘ bitPoly Config.modulus = bitPoly a.toNat := by
  rw [Polynomial.modByMonic_eq_self_iff (monic_bitPoly modulus_ne_zero), degree_bitPoly_lt_iff]
  rcases eq_or_ne a.toNat 0 with h | h
  · rw [h]; decide
  · have hlog : a.toNat.log2 < 8 := (Nat.log2_lt h).2 a.isLt
    have hM : degree Config.modulus = 8 := rfl
    rw [hM, degree_of_ne_zero h]
    omega

/-- A byte is the remainder of every bitmask in its residue class. -/
theorem fieldElem_eq_residue_iff {a : Byte} {p : Nat} :
    fieldElem a = residue p ↔ a.toNat = (polyDivmod p Config.modulus).2 := by
  rw [fieldElem, residue_eq_iff, bitPoly_byte_mod, ← bitPoly_polyDivmod_snd p modulus_ne_zero,
    bitPoly_injective.eq_iff]

theorem fieldElem_injective : Function.Injective fieldElem := by
  intro a b h
  rw [fieldElem, fieldElem, residue_eq_iff, bitPoly_byte_mod, bitPoly_byte_mod, bitPoly_injective.eq_iff] at h
  exact BitVec.eq_of_toNat_eq h

theorem residue_xor (p q : Nat) : residue (p ^^^ q) = residue p + residue q := by
  rw [residue, bitPoly_xor, map_add]
  rfl

theorem residue_polyMul (a b : Nat) : residue (polyMul a b) = residue a * residue b := by
  rw [residue, bitPoly_polyMul, map_mul]
  rfl

theorem residue_shiftLeft_one (p : Nat) : residue (p <<< 1) = residue p * AdjoinRoot.root _ := by
  rw [residue, bitPoly_shiftLeft, pow_one, map_mul, AdjoinRoot.mk_X]
  rfl

theorem residue_modulus : residue Config.modulus = 0 := AdjoinRoot.mk_self

@[simp] theorem fieldElem_zero : fieldElem 0 = 0 :=
  (congrArg _ bitPoly_zero).trans (map_zero _)

@[simp] theorem fieldElem_one : fieldElem 1 = 1 :=
  (congrArg _ bitPoly_one).trans (map_one _)

theorem fieldElem_xor (a b : Byte) : fieldElem (a ^^^ b) = fieldElem a + fieldElem b := by
  rw [fieldElem, BitVec.toNat_xor, residue_xor]
  rfl

@[simp] theorem fieldElem_gfAdd (a b : Byte) : fieldElem (gfAdd a b) = fieldElem a + fieldElem b := fieldElem_xor a b

/-- The doubling step shifts, and takes the modulus off what leaves the 8 bits. -/
theorem toNat_gfDouble : ∀ a : Byte,
    (gfDouble a).toNat = (a.toNat <<< 1) ^^^ (if a.getLsbD 7 then Config.modulus else 0) := by decide

theorem fieldElem_gfDouble (a : Byte) : fieldElem (gfDouble a) = fieldElem a * AdjoinRoot.root _ := by
  rw [fieldElem, toNat_gfDouble, residue_xor, residue_shiftLeft_one, ← fieldElem]
  split
  · rw [residue_modulus, add_zero]
  · exact (congrArg _ fieldElem_zero).trans (add_zero _)

/-- A byte is its upper seven bits times x, and its bit 0. -/
theorem fieldElem_shiftRight (b : Byte) :
    fieldElem b = fieldElem (b >>> 1) * AdjoinRoot.root _ + if b.getLsbD 0 then 1 else 0 := by
  rw [fieldElem, residue, bitPoly_eq_divX b.toNat, map_add, map_mul, AdjoinRoot.mk_X, BitVec.testBit_toNat]
  refine congrArg _ ?_
  cases b.getLsbD 0 with
  | false => exact map_zero ((AdjoinRoot.mk _).comp C)
  | true => exact map_one ((AdjoinRoot.mk _).comp C)

/-- The loop of R111, with as many iterations as b has bits, adds a * b to p. -/
theorem fieldElem_gfMulLoop (n : Nat) {a b p : Byte} (hb : b.toNat < 2 ^ n) :
    fieldElem (gfMulLoop n a b p) = fieldElem p + fieldElem a * fieldElem b := by
  induction n generalizing a b p with
  | zero =>
    obtain rfl : b = 0 := BitVec.eq_of_toNat_eq (Nat.lt_one_iff.1 hb)
    rw [gfMulLoop, fieldElem_zero, mul_zero, add_zero]
  | succ n ih =>
    rw [gfMulLoop]
    split
    · next h => rw [h, fieldElem_zero, mul_zero, add_zero]
    · have hshift : (b >>> 1).toNat < 2 ^ n := by
        rw [BitVec.toNat_ushiftRight, Nat.shiftRight_one]
        omega
      rw [ih hshift, fieldElem_gfDouble, fieldElem_shiftRight b]
      split
      · rw [fieldElem_xor]; ring
      · ring

@[simp] theorem fieldElem_gfMul (a b : Byte) : fieldElem (gfMul a b) = fieldElem a * fieldElem b := by
  rw [gfMul, fieldElem_gfMulLoop 8 b.isLt, fieldElem_zero, zero_add]

/-! ### The laws of addition and multiplication -/

theorem gfMul_comm (a b : Byte) : gfMul a b = gfMul b a :=
  fieldElem_injective (by simp only [fieldElem_gfMul, mul_comm])

theorem gfMul_assoc (a b c : Byte) : gfMul (gfMul a b) c = gfMul a (gfMul b c) :=
  fieldElem_injective (by simp only [fieldElem_gfMul, mul_assoc])

@[simp] theorem one_gfMul (a : Byte) : gfMul 1 a = a :=
  fieldElem_injective (by rw [fieldElem_gfMul, fieldElem_one, one_mul])

@[simp] theorem zero_gfMul (a : Byte) : gfMul 0 a = 0 :=
  fieldElem_injective (by rw [fieldElem_gfMul, fieldElem_zero, zero_mul])

@[simp] theorem gfMul_one (a : Byte) : gfMul a 1 = a := by rw [gfMul_comm, one_gfMul]

@[simp] theorem gfMul_zero (a : Byte) : gfMul a 0 = 0 := by rw [gfMul_comm, zero_gfMul]

theorem gfMul_gfAdd (a b c : Byte) : gfMul a (gfAdd b c) = gfAdd (gfMul a b) (gfMul a c) :=
  fieldElem_injective (by simp only [fieldElem_gfMul, fieldElem_gfAdd, mul_add])

/-- Settles O41: both sides are the byte of one residue class. -/
theorem gfMulIsThePolynomialProductModulo : Obligations.GfMulIsThePolynomialProductModulo := by
  refine ⟨fun a b => fieldElem_eq_residue_iff.1 ?_, gfMul_zero, zero_gfMul, one_gfMul⟩
  rw [fieldElem_gfMul, residue_polyMul]
  rfl

/-! ### Inverses and quotients -/

/-- The extended Euclid loop of R116 run on each of the 255 nonzero bytes, its result checked by R111. -/
theorem gfInv_checked : ∀ a : Byte, a ≠ 0 → (gfInv a).map (gfMul a) = .ok 1 := by decide

theorem gfInv_spec {a : Byte} (h : a ≠ 0) : ∃ v, gfInv a = .ok v ∧ gfMul a v = 1 := by
  obtain ⟨v, hv⟩ := gfInv_ok h
  have hcheck := gfInv_checked a h
  rw [hv] at hcheck
  exact ⟨v, hv, Except.ok.inj hcheck⟩

/-- Settles O42: in a commutative monoid inverses are unique. -/
theorem inverseIsUnique : Obligations.InverseIsUnique := by
  intro a ha
  obtain ⟨v, hv, hav⟩ := gfInv_spec ha
  refine ⟨v, hv, hav, fun u hau => ?_⟩
  calc u = gfMul u (gfMul a v) := by rw [hav, gfMul_one]
    _ = gfMul (gfMul a u) v := by rw [← gfMul_assoc, gfMul_comm u]
    _ = v := by rw [hau, one_gfMul]

theorem gfMul_ne_zero {a b : Byte} (ha : a ≠ 0) (hb : b ≠ 0) : gfMul a b ≠ 0 := by
  obtain ⟨v, -, hav⟩ := gfInv_spec ha
  intro h
  refine hb ?_
  calc b = gfMul (gfMul a v) b := by rw [hav, one_gfMul]
    _ = gfMul v (gfMul a b) := by rw [gfMul_comm a, gfMul_assoc]
    _ = 0 := by rw [h, gfMul_zero]

/-- Settles O44: the laws of a ring, and the inverses of `gfInv_spec`. -/
theorem multiplicationLaws : Obligations.MultiplicationLaws := by
  refine ⟨fun a ha => ?_, gfMul_comm, gfMul_assoc, fun a => ⟨one_gfMul a, zero_gfMul a⟩, gfMul_gfAdd,
    fun a b => gfMul_ne_zero⟩
  obtain ⟨v, hv, hav⟩ := gfInv_spec ha
  refine ⟨v, hv, hav, ?_⟩
  rintro rfl
  rw [gfMul_zero] at hav
  exact absurd hav (by decide)

/-- The first two tests of R118 leave the product with the inverse, since 0 times it is 0. -/
theorem gfDiv_eq {b v : Byte} (hb : b ≠ 0) (hv : gfInv b = .ok v) (a : Byte) : gfDiv a b = .ok (gfMul a v) := by
  rw [gfDiv, if_neg hb, hv]
  split
  · next ha => rw [ha, zero_gfMul]
  · rfl

/-- The quotient is the one element whose product with the divisor is the dividend. -/
theorem gfDiv_eq_ok_iff {a b q : Byte} (hb : b ≠ 0) : gfDiv a b = .ok q ↔ gfMul q b = a := by
  obtain ⟨v, hv, hbv⟩ := gfInv_spec hb
  rw [gfDiv_eq hb hv, Except.ok.injEq]
  constructor
  · rintro rfl
    rw [gfMul_assoc, gfMul_comm v, hbv, gfMul_one]
  · rintro rfl
    rw [gfMul_assoc, hbv, gfMul_one]

/-- Settles O45: each law says what a quotient times the divisor is. -/
theorem divisionLaws : Obligations.DivisionLaws := by
  refine ⟨fun a b hb => (gfDiv_eq_ok_iff hb).2 rfl, fun a b hb => ?_,
    fun a => (gfDiv_eq_ok_iff (by decide)).2 (gfMul_one a), fun b hb => (gfDiv_eq_ok_iff hb).2 (zero_gfMul b),
    fun a ha => (gfDiv_eq_ok_iff ha).2 (one_gfMul a), gfDiv_zero⟩
  obtain ⟨q, hq⟩ := gfDiv_ok a hb
  exact ⟨q, hq, (gfDiv_eq_ok_iff hb).1 hq⟩

end Sys2Proof.Machine

/-! ## The field commands

What ADD, SUB, MUL, INV and DIV leave (40_field_arith.md R120 to R124). How a command is encoded, and what an illegal
word of its opcode does, is said once for all of them. -/

namespace Sys2Proof.Machine

/-- A command's encoding, and no other word, decodes to it (30_encoding.md R86, R89). -/
theorem encodedAs_fields (i : Instr) : EncodedAs i i.fields := fun _ =>
  ⟨fun h => (encode_of_decode h).symm, fun h => h ▸ decodeInvertsEncode i⟩

theorem illegalOtherwise (op : BitVec 6) : IllegalOtherwise op := by
  intro w s t _ hw hturn hr hp
  obtain ⟨-, -, hillegal⟩ := legalityFollowsTheClauses
  rw [step_completes_pending hturn hr hp, hillegal w t hw]

/-- Settles O21: gf_add is the xor. -/
theorem addWritesTheXor : Obligations.AddWritesTheXor :=
  ⟨fun _ _ s => finishR_ok _ s, fun a b => encodedAs_fields (.add a b), illegalOtherwise 0x01⟩

/-- Settles O22: gf_sub is the xor too. -/
theorem subWritesTheXor : Obligations.SubWritesTheXor :=
  ⟨fun _ _ s => finishR_ok _ s, fun a b => encodedAs_fields (.sub a b), illegalOtherwise 0x02⟩

theorem gfMul_eq_ofNat (a b : Byte) :
    gfMul a b = BitVec.ofNat 8 (polyDivmod (polyMul a.toNat b.toNat) 0x11b).2 := by
  obtain ⟨hmod, -⟩ := gfMulIsThePolynomialProductModulo
  rw [← hmod, BitVec.ofNat_toNat, BitVec.setWidth_eq]

/-- Settles O23: gf_mul is the polynomial product modulo 0x11b (O41). -/
theorem mulWritesTheFieldProduct : Obligations.MulWritesTheFieldProduct := by
  refine ⟨fun a b s => ?_, fun a b => encodedAs_fields (.mul a b), illegalOtherwise 0x03⟩
  rw [← gfMul_eq_ofNat]
  exact finishR_ok _ s

theorem exec_inv (a : Src) (s : State) : exec (.inv a) s = finishR (gfInv (operand a s)) s := rfl

theorem exec_div (a b : Src) (s : State) : exec (.div a b) s = finishR (gfDiv (operand a s) (operand b s)) s := rfl

/-- Settles O24: gf_inv answers the inverse of a nonzero operand (`gfInv_spec`) and fails on 0. -/
theorem invWritesTheInverse : Obligations.InvWritesTheInverse := by
  refine ⟨fun a s ha => ?_, fun a s ha => ?_, fun a => encodedAs_fields (.inv a), illegalOtherwise 0x05⟩
  · obtain ⟨v, hv, hav⟩ := gfInv_spec ha
    refine ⟨v, hv, hav, ?_⟩
    rw [exec_inv, hv]
    exact finishR_ok v s
  · rw [exec_inv, ha, gfInv_zero, finishR_error]
    exact raise_eq s (by decide)

/-- Settles O25: gf_div answers the product with the inverse of a nonzero divisor (`gfDiv_eq`) and fails on 0. -/
theorem divWritesTheQuotient : Obligations.DivWritesTheQuotient := by
  refine ⟨fun a b s hb => ?_, fun a b s hb => ?_, fun a b => encodedAs_fields (.div a b), illegalOtherwise 0x04⟩
  · obtain ⟨v, hv⟩ := gfInv_ok hb
    refine ⟨v, hv, ?_⟩
    rw [exec_div, gfDiv_eq hb hv]
    exact finishR_ok _ s
  · rw [exec_div, hb, gfDiv_zero, finishR_error]
    exact raise_eq s (by decide)

theorem gfAdd_gfAdd_cancel (a b : Byte) : gfAdd (gfAdd a b) b = a := by
  rw [gfAdd, gfAdd, BitVec.xor_assoc, BitVec.xor_self, BitVec.xor_zero]

theorem exec_add (a b : Src) (s : State) :
    exec (.add a b) s = .next { s.completed with r := gfAdd (operand a s) (operand b s) } := rfl

/-- Settles O43: the laws of xor, and an ADD after an ADD changes R only. -/
theorem additionLaws : Obligations.AdditionLaws := by
  refine ⟨fun a b => ⟨gfAdd_gfAdd_cancel a b, BitVec.xor_comm a b, Asm.gfAdd_zero a, BitVec.xor_self⟩,
    BitVec.xor_assoc, fun a b s t h => ?_⟩
  rw [exec_add] at h
  cases h
  calc exec (.add .r (.lit (operand b s))) _
      = .next { s.completed with r := gfAdd (gfAdd (operand a s) (operand b s)) (operand b s) } := rfl
    _ = .next { s.completed with r := operand a s } := by rw [gfAdd_gfAdd_cancel]

end Sys2Proof.Machine

/-! ## EVAL

What EVAL leaves (41_polynomial.md R140 to R142). The x = 0 branch is the Horner fold at 0 (R141), so the fold is the
value at every x; in the ring of `fieldElem` it is the sum of the coefficients times the powers of x. -/

namespace Sys2Proof.Machine

/-- The fold is over the indices from the highest down to 0. -/
theorem hornerLoop_eq_foldl (coef : Nat → Byte) (x : Byte) (d : Nat) (acc : Byte) :
    hornerLoop coef x d acc =
      (List.range (d + 1)).reverse.foldl (fun acc k => gfMul acc x ^^^ coef k) acc := by
  induction d generalizing acc with
  | zero => rfl
  | succ d ih => rw [hornerLoop, ih, List.range_succ (n := d + 1), List.reverse_concat, List.foldl_cons, gfAdd]

theorem hornerLoop_zero (coef : Nat → Byte) (d : Nat) (acc : Byte) : hornerLoop coef 0 d acc = coef 0 := by
  induction d generalizing acc with
  | zero => exact (congrArg (gfAdd · _) (gfMul_zero acc)).trans BitVec.zero_xor
  | succ d ih => exact ih _

theorem evalPoly_zero (coef : Nat → Byte) (d : Nat) : evalPoly coef d 0 = coef 0 := if_pos rfl

/-- The x = 0 branch adds nothing to the fold (41_polynomial.md R141). -/
theorem evalPoly_eq_hornerLoop (coef : Nat → Byte) (d : Nat) (x : Byte) :
    evalPoly coef d x = hornerLoop coef x d 0 := by
  rw [evalPoly]
  split
  · next hx => rw [hx, hornerLoop_zero]
  · rfl

theorem exec_eval (d : Byte) (x : Src) (s : State) :
    exec (.eval d x) s = .next { s.completed with r := evalPoly s.coefAt d.toNat (operand x s) } := rfl

/-- Settles O26: the two branches of R140, the fold read off `hornerLoop_eq_foldl`. -/
theorem evalWritesTheHornerFold : Obligations.EvalWritesTheHornerFold := by
  refine ⟨fun d x s hx => ?_, fun d x s _ => ?_, fun d x => encodedAs_fields (.eval d x), illegalOtherwise 0x06⟩
  · rw [exec_eval, hx, evalPoly_zero]
    rfl
  · rw [exec_eval, evalPoly_eq_hornerLoop, hornerLoop_eq_foldl]
    rfl

/-! ### The power sum -/

@[simp] theorem fieldElem_fieldPow (x : Byte) (k : Nat) : fieldElem (fieldPow x k) = fieldElem x ^ k := by
  induction k with
  | zero => rw [fieldPow, fieldElem_one, pow_zero]
  | succ k ih => rw [fieldPow, fieldElem_gfMul, ih, pow_succ]

theorem fieldElem_xorSum (f : Nat → Byte) (ks : List Nat) :
    fieldElem (xorSum f ks) = (ks.map fun k => fieldElem (f k)).sum := by
  induction ks with
  | nil => exact fieldElem_zero
  | cons k ks ih => rw [xorSum, fieldElem_xor, ih, List.map_cons, List.sum_cons]

/-- The sum of COEF[k] times x^k over k from 0 to n-1, in the ring of residue classes. -/
theorem fieldElem_powerSum (coef : Nat → Byte) (x : Byte) (n : Nat) :
    fieldElem (xorSum (fun k => gfMul (coef k) (fieldPow x k)) (List.range n)) =
      ((List.range n).map fun k => fieldElem (coef k) * fieldElem x ^ k).sum := by
  simp only [fieldElem_xorSum, fieldElem_gfMul, fieldElem_fieldPow]

/-- Horner's identity: from any start, the fold over COEF[d] to COEF[0] is the start times x^(d+1) and the power sum. -/
theorem fieldElem_hornerLoop (coef : Nat → Byte) (x : Byte) (d : Nat) (acc : Byte) :
    fieldElem (hornerLoop coef x d acc) = fieldElem acc * fieldElem x ^ (d + 1) +
      ((List.range (d + 1)).map fun k => fieldElem (coef k) * fieldElem x ^ k).sum := by
  induction d generalizing acc with
  | zero => simp [hornerLoop]
  | succ d ih =>
    rw [hornerLoop, ih, fieldElem_gfAdd, fieldElem_gfMul, List.sum_range_succ _ (d + 1)]
    ring

/-- EVAL's value is the value of the polynomial (41_polynomial.md R142). -/
theorem evalPoly_eq_powerSum (coef : Nat → Byte) (d : Nat) (x : Byte) :
    evalPoly coef d x = xorSum (fun k => gfMul (coef k) (fieldPow x k)) (List.range (d + 1)) :=
  fieldElem_injective (by
    rw [evalPoly_eq_hornerLoop, fieldElem_hornerLoop, fieldElem_zero, zero_mul, zero_add, fieldElem_powerSum])

/-- Settles O27: Horner's identity, started from 0. -/
theorem evalWritesThePowerSum : Obligations.EvalWritesThePowerSum := fun d x s => by
  rw [exec_eval, evalPoly_eq_powerSum]

end Sys2Proof.Machine

/-! ## The field of residue classes

Every residue class is the class of a byte, and every nonzero byte has an inverse, so the ring of `fieldElem` is a
field (40_field_arith.md R132). Mathlib's Lagrange interpolation is stated over a field. -/

namespace Sys2Proof.Machine

open Polynomial (X C)
open scoped Polynomial

theorem exists_fieldElem_eq_mk (p : Bool[X]) : ∃ a, fieldElem a = AdjoinRoot.mk (bitPoly Config.modulus) p := by
  induction p using Polynomial.induction_on with
  | C b =>
    cases b with
    | false => exact ⟨0, fieldElem_zero.trans (map_zero ((AdjoinRoot.mk _).comp C)).symm⟩
    | true => exact ⟨1, fieldElem_one.trans (map_one ((AdjoinRoot.mk _).comp C)).symm⟩
  | add p q hp hq =>
    obtain ⟨a, ha⟩ := hp
    obtain ⟨b, hb⟩ := hq
    exact ⟨gfAdd a b, by rw [fieldElem_gfAdd, ha, hb, map_add]⟩
  | monomial n b h =>
    obtain ⟨a, ha⟩ := h
    exact ⟨gfDouble a, by rw [fieldElem_gfDouble, ha, pow_succ, ← mul_assoc, map_mul _ (C b * X ^ n), AdjoinRoot.mk_X]⟩

theorem fieldElem_surjective : Function.Surjective fieldElem := fun x =>
  AdjoinRoot.induction_on _ x exists_fieldElem_eq_mk

theorem fieldElem_eq_zero {a : Byte} : fieldElem a = 0 ↔ a = 0 := by
  rw [← fieldElem_zero, fieldElem_injective.eq_iff]

theorem isField_residueRing : IsField ResidueRing where
  exists_pair_ne := ⟨_, _, fieldElem_injective.ne (show (0 : Byte) ≠ 1 by decide)⟩
  mul_comm := mul_comm
  mul_inv_cancel {x} hx := by
    obtain ⟨a, rfl⟩ := fieldElem_surjective x
    obtain ⟨v, -, hav⟩ := gfInv_spec (mt fieldElem_eq_zero.2 hx)
    exact ⟨fieldElem v, by rw [← fieldElem_gfMul, hav, fieldElem_one]⟩

/-- The ring of residue classes with its inverses; its ring operations are those of `ResidueRing`. -/
noncomputable abbrev residueField : Field ResidueRing := isField_residueRing.toField

/-- Every residue class is its own negative (40_field_arith.md R110). -/
theorem neg_fieldElem (a : Byte) : -fieldElem a = fieldElem a :=
  neg_eq_of_add_eq_zero_left (by rw [← fieldElem_xor, BitVec.xor_self]; exact fieldElem_zero)

end Sys2Proof.Machine

/-! ## INTERP

What INTERP leaves (42_interpolation.md R150 to R156). On points with distinct x its two loops answer the sum of the
basis products, `lagrangeValue`. In the field of residue classes that is the value at 0 of the one polynomial of degree
below n through the n points, and R154 to R156 are read off this polynomial. -/

namespace Sys2Proof.Machine

open Polynomial (X C)
open scoped Polynomial

/-! ### The Lagrange value -/

/-- The factor of the basis product of point i that point j gives, gf_div(PX[j], gf_sub(PX[i], PX[j])) (R150). -/
def basisFactor (px : Nat → Byte) (i j : Nat) : Byte := (gfDiv (px j) (px i ^^^ px j)).toOption.getD 0

/-- The basis product of point i over the listed points other than i (R150). -/
def basisProduct (px : Nat → Byte) (i : Nat) (js : List Nat) : Byte :=
  fieldProd (basisFactor px i) (js.filter (fun j => j ≠ i))

/-- The sum over the points 0 to n-1 of PY[i] times the basis product of point i (R150). -/
def lagrangeValue (px py : Nat → Byte) (n : Nat) : Byte :=
  xorSum (fun i => gfMul (py i) (basisProduct px i (List.range n))) (List.range n)

theorem basisProduct_cons_self (px : Nat → Byte) (i : Nat) (js : List Nat) :
    basisProduct px i (i :: js) = basisProduct px i js := by
  rw [basisProduct, List.filter_cons_of_neg (by simp), basisProduct]

theorem basisProduct_cons_of_ne (px : Nat → Byte) {i j : Nat} (h : j ≠ i) (js : List Nat) :
    basisProduct px i (j :: js) = gfMul (basisFactor px i j) (basisProduct px i js) := by
  rw [basisProduct, List.filter_cons_of_pos (by simpa using h), fieldProd, basisProduct]

theorem DistinctX.ne {px : Nat → Byte} {n i j : Nat} (h : DistinctX px n) (hi : i < n) (hj : j < n) (hne : j ≠ i) :
    px i ≠ px j := fun heq => hne (h i j hi hj heq).symm

theorem gfDiv_eq_basisFactor {px : Nat → Byte} {i j : Nat} (h : px i ≠ px j) :
    gfDiv (px j) (px i ^^^ px j) = .ok (basisFactor px i j) := by
  obtain ⟨q, hq⟩ := gfDiv_ok (px j) (mt BitVec.xor_eq_zero_iff.1 h)
  rw [basisFactor, hq]
  rfl

theorem basisLoop_eq {px : Nat → Byte} {i : Nat} {js : List Nat} (h : ∀ j ∈ js, j ≠ i → px i ≠ px j) (basis : Byte) :
    basisLoop px i js basis = .ok (gfMul basis (basisProduct px i js)) := by
  induction js generalizing basis with
  | nil => exact congrArg Except.ok (gfMul_one basis).symm
  | cons j js ih =>
    have ih := ih fun k hk => h k (List.mem_cons_of_mem j hk)
    by_cases hj : j = i
    · rw [basisLoop, if_pos hj, ih, hj, basisProduct_cons_self]
    · rw [basisLoop, if_neg hj, gfSub, gfDiv_eq_basisFactor (h j List.mem_cons_self hj),
        basisProduct_cons_of_ne px hj, ← gfMul_assoc]
      exact ih _

theorem lagrangeLoop_eq {px : Nat → Byte} (py : Nat → Byte) {js is : List Nat}
    (h : ∀ i ∈ is, ∀ j ∈ js, j ≠ i → px i ≠ px j) (acc : Byte) :
    lagrangeLoop px py js is acc = .ok (acc ^^^ xorSum (fun i => gfMul (py i) (basisProduct px i js)) is) := by
  induction is generalizing acc with
  | nil => exact congrArg Except.ok BitVec.xor_zero.symm
  | cons i is ih =>
    rw [lagrangeLoop, basisLoop_eq (h i List.mem_cons_self), one_gfMul, xorSum, ← BitVec.xor_assoc]
    exact ih (fun k hk => h k (List.mem_cons_of_mem i hk)) _

theorem interpAtZero_eq_lagrangeValue {px : Nat → Byte} (py : Nat → Byte) {n : Nat} (hn : n ≠ 0)
    (h : DistinctX px n) : interpAtZero px py n = .ok (lagrangeValue px py n) := by
  rw [interpAtZero, if_neg hn, findDuplicate_eq_none.2 h, lagrangeValue, ← BitVec.zero_xor (x := xorSum _ _)]
  exact lagrangeLoop_eq py (fun i hi j hj => h.ne (List.mem_range.1 hi) (List.mem_range.1 hj)) 0

/-! ### The completion of INTERP -/

theorem exec_interp (n : Src) (s : State) :
    exec (.interp n) s = finishR (interpAtZero s.pxAt s.pyAt (operand n s).toNat) s := rfl

theorem exec_interp_of_distinctX {n : Src} {s : State} (hn : (operand n s).toNat ≠ 0)
    (h : DistinctX s.pxAt (operand n s).toNat) :
    exec (.interp n) s = .next { s.completed with r := lagrangeValue s.pxAt s.pyAt (operand n s).toNat } := by
  rw [exec_interp, interpAtZero_eq_lagrangeValue s.pyAt hn h]
  exact finishR_ok _ s

theorem exec_interp_of_firstDuplicate {n : Src} {s : State} {i j : Nat}
    (h : FirstDuplicate s.pxAt (operand n s).toNat i j) :
    exec (.interp n) s = .next (s.failedWith 0x4 (s.pxAt i) (BitVec.ofNat 8 i) (BitVec.ofNat 8 j)) := by
  rw [exec_interp, interpAtZero_duplicate s.pyAt h, finishR_error]
  exact raise_eq s nofun

/-- Settles O28: the two failures of the checks, and the sum of the basis products that the loops compute. -/
theorem interpWritesTheLagrangeValue : Obligations.InterpWritesTheLagrangeValue := by
  refine ⟨fun n s hn => ?_, fun n s i j h => exec_interp_of_firstDuplicate h, fun n s hn h => ?_,
    distinctX_or_firstDuplicate, fun n => encodedAs_fields (.interp n), illegalOtherwise 0x07⟩
  · rw [exec_interp, hn, interpAtZero_empty, finishR_error]
    exact raise_eq s nofun
  · exact ⟨basisFactor s.pxAt, fun i j hi hj hne => gfDiv_eq_basisFactor (h.ne hi hj hne),
      exec_interp_of_distinctX hn h⟩

theorem distinctX_one (px : Nat → Byte) : DistinctX px 1 := fun _ _ hi hj _ =>
  (Nat.lt_one_iff.1 hi).trans (Nat.lt_one_iff.1 hj).symm

theorem lagrangeValue_one (px py : Nat → Byte) : lagrangeValue px py 1 = py 0 :=
  BitVec.xor_zero.trans (gfMul_one (py 0))

/-- Settles O29: the basis product of a single point is empty. -/
theorem interpOnePointWritesItsY : Obligations.InterpOnePointWritesItsY := by
  intro n s h
  have hn : (operand n s).toNat = 1 := congrArg BitVec.toNat h
  rw [exec_interp_of_distinctX (by omega) (hn ▸ distinctX_one s.pxAt), hn, lagrangeValue_one]
  rfl

/-! ### The interpolating polynomial -/

/-- The polynomial of degree below n through the points 0 to n-1. -/
noncomputable def interpolant (px py : Nat → Byte) (n : Nat) : ResidueRing[X] :=
  letI := residueField
  Lagrange.interpolate (Finset.range n) (fun i => fieldElem (px i)) (fun i => fieldElem (py i))

theorem DistinctX.injOn {px : Nat → Byte} {n : Nat} (h : DistinctX px n) :
    Set.InjOn (fun i => fieldElem (px i)) (Finset.range n) := fun i hi j hj heq =>
  h i j (Finset.mem_range.1 hi) (Finset.mem_range.1 hj) (fieldElem_injective heq)

theorem degree_interpolant_lt {px : Nat → Byte} (py : Nat → Byte) {n : Nat} (h : DistinctX px n) :
    (interpolant px py n).degree < n := by
  let := residueField
  have hdeg := Lagrange.degree_interpolate_lt (fun i => fieldElem (py i)) h.injOn
  rwa [Finset.card_range] at hdeg

theorem eval_interpolant {px : Nat → Byte} (py : Nat → Byte) {n i : Nat} (h : DistinctX px n) (hi : i < n) :
    (interpolant px py n).eval (fieldElem (px i)) = fieldElem (py i) :=
  letI := residueField
  Lagrange.eval_interpolate_at_node _ h.injOn (Finset.mem_range.2 hi)

theorem eq_interpolant {px py : Nat → Byte} {n : Nat} {f : ResidueRing[X]} (h : DistinctX px n) (hdeg : f.degree < n)
    (hf : ∀ i < n, f.eval (fieldElem (px i)) = fieldElem (py i)) : f = interpolant px py n :=
  letI := residueField
  Lagrange.eq_interpolate_of_eval_eq _ h.injOn (by rwa [Finset.card_range])
    fun i hi => hf i (Finset.mem_range.1 hi)

/-! ### INTERP's value is the interpolating polynomial at 0 -/

theorem fieldElem_fieldProd (f : Nat → Byte) (ks : List Nat) :
    fieldElem (fieldProd f ks) = (ks.map fun k => fieldElem (f k)).prod := by
  induction ks with
  | nil => exact fieldElem_one
  | cons k ks ih => rw [fieldProd, fieldElem_gfMul, ih, List.map_cons, List.prod_cons]

theorem eval_zero_basisDivisor {px : Nat → Byte} {i j : Nat} (h : px i ≠ px j) :
    letI := residueField
    (Lagrange.basisDivisor (fieldElem (px i)) (fieldElem (px j))).eval 0 = fieldElem (basisFactor px i j) := by
  let := residueField
  have hxor : px i ^^^ px j ≠ 0 := mt BitVec.xor_eq_zero_iff.1 h
  have hmul : fieldElem (basisFactor px i j) * fieldElem (px i ^^^ px j) = fieldElem (px j) := by
    rw [← fieldElem_gfMul, (gfDiv_eq_ok_iff hxor).1 (gfDiv_eq_basisFactor h)]
  have hsub : fieldElem (px i) - fieldElem (px j) = fieldElem (px i ^^^ px j) := by
    rw [sub_eq_add_neg, neg_fieldElem, fieldElem_xor]
  rw [Lagrange.basisDivisor, Polynomial.eval_mul, Polynomial.eval_C, Polynomial.eval_sub, Polynomial.eval_X,
    Polynomial.eval_C, zero_sub, neg_fieldElem, hsub, inv_mul_eq_iff_eq_mul₀ (mt fieldElem_eq_zero.1 hxor),
    mul_comm, hmul]

theorem eval_zero_basis {px : Nat → Byte} {n i : Nat} (h : DistinctX px n) (hi : i < n) :
    letI := residueField
    (Lagrange.basis (Finset.range n) (fun j => fieldElem (px j)) i).eval 0 =
      fieldElem (basisProduct px i (List.range n)) := by
  let := residueField
  have hindices : ((List.range n).filter (fun j => j ≠ i)).toFinset = (Finset.range n).erase i := by
    rw [List.toFinset_filter, List.toFinset_range]
    simp only [decide_eq_true_eq, Finset.filter_ne']
  rw [basisProduct, fieldElem_fieldProd, ← List.prod_toFinset _ (List.nodup_range.filter _), hindices, Lagrange.basis,
    Polynomial.eval_prod]
  refine Finset.prod_congr rfl fun j hj => ?_
  obtain ⟨hne, hj⟩ := Finset.mem_erase.1 hj
  exact eval_zero_basisDivisor (h.ne hi (Finset.mem_range.1 hj) hne)

theorem eval_zero_interpolant {px : Nat → Byte} (py : Nat → Byte) {n : Nat} (h : DistinctX px n) :
    (interpolant px py n).eval 0 = fieldElem (lagrangeValue px py n) := by
  let := residueField
  rw [interpolant, Lagrange.interpolate_apply, Polynomial.eval_finsetSum, lagrangeValue, fieldElem_xorSum,
    ← List.sum_toFinset _ List.nodup_range, List.toFinset_range]
  refine Finset.sum_congr rfl fun i hi => ?_
  rw [Polynomial.eval_mul, Polynomial.eval_C, eval_zero_basis h (Finset.mem_range.1 hi), fieldElem_gfMul]

/-- INTERP's value is the value at 0 of every polynomial of degree below n through the n points. -/
theorem fieldElem_lagrangeValue {px py : Nat → Byte} {n : Nat} {f : ResidueRing[X]} (h : DistinctX px n)
    (hdeg : f.degree < n) (hf : ∀ i < n, f.eval (fieldElem (px i)) = fieldElem (py i)) :
    fieldElem (lagrangeValue px py n) = f.eval 0 := by
  rw [eq_interpolant h hdeg hf, eval_zero_interpolant py h]

/-! ### A point at 0, the constant term, and the order of the points -/

theorem lagrangeValue_eq_of_x_eq_zero {px : Nat → Byte} (py : Nat → Byte) {n k : Nat} (h : DistinctX px n) (hk : k < n)
    (hx : px k = 0) : lagrangeValue px py n = py k :=
  fieldElem_injective (by
    rw [← eval_zero_interpolant py h, ← fieldElem_zero, ← hx, eval_interpolant py h hk])

/-- Settles O30: the interpolating polynomial passes through the point at 0. -/
theorem interpPointAtZeroWritesItsY : Obligations.InterpPointAtZeroWritesItsY := by
  intro n s k h hk hx
  rw [exec_interp_of_distinctX (by omega) h, lagrangeValue_eq_of_x_eq_zero s.pyAt h hk hx]

/-- The polynomial with the coefficients 0 to d (41_polynomial.md R142). -/
noncomputable def coefPoly (coef : Nat → Byte) (d : Nat) : ResidueRing[X] :=
  ∑ k ∈ Finset.range (d + 1), C (fieldElem (coef k)) * X ^ k

theorem degree_coefPoly_lt (coef : Nat → Byte) {d n : Nat} (h : d < n) : (coefPoly coef d).degree < n := by
  refine (Polynomial.degree_sum_le _ _).trans_lt ((Finset.sup_lt_iff (WithBot.bot_lt_coe n)).2 fun k hk => ?_)
  refine (Polynomial.degree_C_mul_X_pow_le k _).trans_lt (Nat.cast_lt.2 ?_)
  have := Finset.mem_range.1 hk
  omega

theorem eval_coefPoly (coef : Nat → Byte) (d : Nat) (x : Byte) :
    (coefPoly coef d).eval (fieldElem x) = fieldElem (evalPoly coef d x) := by
  rw [evalPoly_eq_powerSum, fieldElem_powerSum, ← List.sum_toFinset _ List.nodup_range, List.toFinset_range, coefPoly,
    Polynomial.eval_finsetSum]
  simp only [Polynomial.eval_mul, Polynomial.eval_C, Polynomial.eval_pow, Polynomial.eval_X]

theorem lagrangeValue_evalPoly {px py : Nat → Byte} (coef : Nat → Byte) {d n : Nat} (h : DistinctX px n) (hd : d < n)
    (hpoly : ∀ i < n, evalPoly coef d (px i) = py i) : lagrangeValue px py n = coef 0 := by
  refine fieldElem_injective ?_
  have hpoints : ∀ i < n, (coefPoly coef d).eval (fieldElem (px i)) = fieldElem (py i) := fun i hi => by
    rw [eval_coefPoly, hpoly i hi]
  rw [fieldElem_lagrangeValue h (degree_coefPoly_lt coef hd) hpoints, ← fieldElem_zero, eval_coefPoly, evalPoly_zero]

/-- Settles O31: the polynomial in COEF is the interpolating one, and EVAL's value at 0 is COEF[0]. -/
theorem interpRecoversTheConstantTerm : Obligations.InterpRecoversTheConstantTerm := by
  intro n s d hd h heval
  have hpoly : ∀ i < (operand n s).toNat, evalPoly s.coefAt d.toNat (s.pxAt i) = s.pyAt i := fun i hi =>
    congrArg State.r (Host.Outcome.next.inj ((exec_eval d _ s).symm.trans (heval i hi)))
  rw [exec_interp_of_distinctX (by omega) h, lagrangeValue_evalPoly s.coefAt h hd hpoly]
  rfl

/-- The points of one memory taken in another order lie on the same polynomial. -/
theorem lagrangeValue_of_reordered {px py px' py' : Nat → Byte} {n : Nat} {σ : Nat → Nat} (h : DistinctX px n)
    (h' : DistinctX px' n) (hσ : ∀ i < n, σ i < n ∧ px' i = px (σ i) ∧ py' i = py (σ i)) :
    lagrangeValue px' py' n = lagrangeValue px py n := by
  refine fieldElem_injective ?_
  have hpoints : ∀ i < n, (interpolant px py n).eval (fieldElem (px' i)) = fieldElem (py' i) := fun i hi => by
    obtain ⟨hlt, hpx, hpy⟩ := hσ i hi
    rw [hpx, hpy, eval_interpolant py h hlt]
  rw [fieldElem_lagrangeValue h' (degree_interpolant_lt py h) hpoints, eval_zero_interpolant py h]

theorem DistinctX.reordered {px px' : Nat → Byte} {n : Nat} {σ : Nat → Nat} (h : DistinctX px n)
    (hσ : ∀ i < n, σ i < n ∧ px' i = px (σ i)) (hinj : ∀ i j, i < n → j < n → σ i = σ j → i = j) :
    DistinctX px' n := by
  intro i j hi hj heq
  obtain ⟨hi', hpi⟩ := hσ i hi
  obtain ⟨hj', hpj⟩ := hσ j hj
  exact hinj i j hi hj (h _ _ hi' hj' (by rw [← hpi, ← hpj, heq]))

/-- After reset, entries 0 to 2 of PX hold these bytes. -/
def withThreeX (x₀ x₁ x₂ : Byte) : State := { State.reset with px := [(0, x₀), (1, x₁), (2, x₂)] }

/-- Settles O32: reordered points lie on the same polynomial; x values 7, 9, 7 have the duplicate pair (0, 2), and with
the last two points exchanged (0, 1). -/
theorem interpIgnoresTheOrderOfPoints : Obligations.InterpIgnoresTheOrderOfPoints := by
  constructor
  · intro s t n m σ hcount hne h hσ hinj
    have hn : (operand n s).toNat ≠ 0 := fun h0 => hne (BitVec.eq_of_toNat_eq h0)
    have ht : DistinctX t.pxAt (operand n s).toNat := h.reordered (fun i hi => (hσ i hi).imp_right And.left) hinj
    refine ⟨_, exec_interp_of_distinctX hn h, ?_⟩
    rw [exec_interp_of_distinctX (hcount ▸ hn) (hcount ▸ ht), hcount, lagrangeValue_of_reordered h ht hσ]
  · refine ⟨withThreeX 7 9 7, withThreeX 7 7 9, _, _, 3, Equiv.swap 1 2, ?_,
      fun i j _ _ heq => (Equiv.swap 1 2).injective heq, rfl, rfl, rfl, rfl, by decide⟩
    decide

end Sys2Proof.Machine

/-! ## Data movement

What LDC, LDP, RDC, RDPX and RDPY leave (43_data_movement.md R170 to R174), and that an entry no load has written still
reads as after reset (70_reset_and_hazards.md R242). -/

namespace Sys2Proof.Machine

/-! ### The loads -/

theorem exec_ldc (i : Byte) (v : Src) (s : State) :
    exec (.ldc i v) s = .next { s.completed with coef := Memory.write s.coef i (operand v s) } := rfl

theorem exec_ldp (i : Byte) (x y : Src) (s : State) :
    exec (.ldp i x y) s = .next { s.completed with
      px := Memory.write s.px i (operand x s), py := Memory.write s.py i (operand y s) } := rfl

/-- Settles O33: LDC is one memory write, and a read after it is `Memory.read_write`. -/
theorem ldcWritesOneCoefficient : Obligations.LdcWritesOneCoefficient :=
  ⟨fun i v s => ⟨_, exec_ldc i v s, fun hcoef k => Memory.read_write _ k hcoef⟩,
    fun i v => encodedAs_fields (.ldc i v), illegalOtherwise 0x08⟩

/-- Settles O34: LDP is two memory writes in one step, and a read after each is `Memory.read_write`. -/
theorem ldpWritesOnePoint : Obligations.LdpWritesOnePoint :=
  ⟨fun i x y s => ⟨_, _, exec_ldp i x y s, fun hpx k => Memory.read_write _ k hpx,
      fun hpy k => Memory.read_write _ k hpy⟩,
    fun i x y => encodedAs_fields (.ldp i x y), illegalOtherwise 0x09⟩

/-! ### What a run of command words does to the memories -/

/-- A completion leaves COEF as it was, or is an LDC. -/
theorem complete_coef {w : Word} {s t : State} (h : complete w s = .next t) :
    t.coef = s.coef ∨ ∃ k v, decode w = .ok (.ldc k v) ∧ t.coef = Memory.write s.coef k (operand v s) := by
  obtain ⟨i, hi, hc⟩ | ⟨-, -, rfl⟩ := complete_cases h
  · cases hc with
    | ldc k v => exact .inr ⟨k, v, hi, rfl⟩
    | _ => exact .inl rfl
  · exact .inl rfl

/-- A completion leaves PX and PY as they were, or is an LDP. -/
theorem complete_points {w : Word} {s t : State} (h : complete w s = .next t) :
    (t.px = s.px ∧ t.py = s.py) ∨ ∃ k x y, decode w = .ok (.ldp k x y) ∧
      t.px = Memory.write s.px k (operand x s) ∧ t.py = Memory.write s.py k (operand y s) := by
  obtain ⟨i, hi, hc⟩ | ⟨-, -, rfl⟩ := complete_cases h
  · cases hc with
    | ldp k x y => exact .inr ⟨k, x, y, hi, rfl, rfl⟩
    | _ => exact .inl ⟨rfl, rfl⟩
  · exact .inl ⟨rfl, rfl⟩

/-- What each word's completion keeps, a run of the words keeps. -/
theorem runCommands_keeps {P : State → Prop} {ws : List Word}
    (hP : ∀ w ∈ ws, ∀ s t, complete w s = .next t → P s → P t) {s t : State} (h : runCommands ws s = .next t)
    (hs : P s) : P t := by
  induction ws generalizing s with
  | nil => exact Host.Outcome.next.inj h ▸ hs
  | cons w ws ih =>
    obtain ⟨u, hu⟩ := complete_total w s
    rw [runCommands_cons hu] at h
    exact ih (fun w' hw' => hP w' (List.mem_cons_of_mem w hw')) h (hP w List.mem_cons_self s u hu hs)

/-- The memory is in canonical form and its entry i reads as one not written since reset. -/
def Memory.UnwrittenAt (i : Byte) (m : Memory) : Prop := Memory.wf m = true ∧ Memory.read m i = 0

theorem Memory.unwrittenAt_nil (i : Byte) : Memory.UnwrittenAt i [] := ⟨Memory.wf_nil, Memory.read_nil i⟩

theorem Memory.UnwrittenAt.write_other {i k : Byte} {m : Memory} (h : Memory.UnwrittenAt i m) (hk : i ≠ k) (v : Byte) :
    Memory.UnwrittenAt i (Memory.write m k v) :=
  ⟨Memory.wf_write h.1 k v, (Memory.read_write_other h.1 v hk).trans h.2⟩

theorem complete_keeps_coef_unwrittenAt {w : Word} {i : Byte} (hw : ∀ v, decode w ≠ .ok (.ldc i v)) (s t : State)
    (h : complete w s = .next t) (hs : Memory.UnwrittenAt i s.coef) : Memory.UnwrittenAt i t.coef := by
  obtain ht | ⟨k, v, hd, ht⟩ := complete_coef h
  · rwa [ht]
  · rw [ht]
    exact hs.write_other (fun hk => hw v (hk ▸ hd)) _

theorem complete_keeps_points_unwrittenAt {w : Word} {i : Byte} (hw : ∀ x y, decode w ≠ .ok (.ldp i x y)) (s t : State)
    (h : complete w s = .next t) (hs : Memory.UnwrittenAt i s.px ∧ Memory.UnwrittenAt i s.py) :
    Memory.UnwrittenAt i t.px ∧ Memory.UnwrittenAt i t.py := by
  obtain ⟨hpx, hpy⟩ | ⟨k, x, y, hd, hpx, hpy⟩ := complete_points h
  · rwa [hpx, hpy]
  · rw [hpx, hpy]
    have hk : i ≠ k := fun hk => hw x y (hk ▸ hd)
    exact ⟨hs.1.write_other hk _, hs.2.write_other hk _⟩

theorem read_coef_of_no_ldc {ws : List Word} {s t : State} {i : Byte} (hs : s.coef = [])
    (h : runCommands ws s = .next t) (hws : ∀ w ∈ ws, ∀ v, decode w ≠ .ok (.ldc i v)) : Memory.read t.coef i = 0 :=
  (runCommands_keeps (P := fun u => Memory.UnwrittenAt i u.coef)
    (fun w hw => complete_keeps_coef_unwrittenAt (hws w hw)) h (hs ▸ Memory.unwrittenAt_nil i)).2

theorem read_point_of_no_ldp {ws : List Word} {s t : State} {i : Byte} (hpx : s.px = []) (hpy : s.py = [])
    (h : runCommands ws s = .next t) (hws : ∀ w ∈ ws, ∀ x y, decode w ≠ .ok (.ldp i x y)) :
    Memory.read t.px i = 0 ∧ Memory.read t.py i = 0 :=
  (runCommands_keeps (P := fun u => Memory.UnwrittenAt i u.px ∧ Memory.UnwrittenAt i u.py)
    (fun w hw => complete_keeps_points_unwrittenAt (hws w hw)) h
    ⟨hpx ▸ Memory.unwrittenAt_nil i, hpy ▸ Memory.unwrittenAt_nil i⟩).imp And.right And.right

/-! ### Reading back -/

theorem exec_rdc (i : Byte) (s : State) : exec (.rdc i) s = .next { s.completed with r := Memory.read s.coef i } := rfl

theorem exec_rdpx (i : Byte) (s : State) : exec (.rdpx i) s = .next { s.completed with r := Memory.read s.px i } := rfl

theorem exec_rdpy (i : Byte) (s : State) : exec (.rdpy i) s = .next { s.completed with r := Memory.read s.py i } := rfl

/-- Settles O35: after a run without a load to i from empty memories, entry i is still unwritten. -/
theorem readBackWritesTheEntryToR : Obligations.ReadBackWritesTheEntryToR := by
  refine ⟨exec_rdc, exec_rdpx, exec_rdpy, fun ws s t i hs h hws => ?_, fun ws s t i hpx hpy h hws => ?_,
    fun i => encodedAs_fields (.rdc i), illegalOtherwise 0x0A, fun i => encodedAs_fields (.rdpx i),
    illegalOtherwise 0x0B, fun i => encodedAs_fields (.rdpy i), illegalOtherwise 0x0C⟩
  · rw [exec_rdc, read_coef_of_no_ldc hs h hws]
  · obtain ⟨hx, hy⟩ := read_point_of_no_ldp hpx hpy h hws
    exact ⟨by rw [exec_rdpx, hx], by rw [exec_rdpy, hy]⟩

end Sys2Proof.Machine

/-! ## The control commands

What NOP and CLRERR leave (44_control.md R190, R192). Neither has an operand, so one word alone of its opcode is legal,
the command's encoding. -/

namespace Sys2Proof.Machine

/-- An operand-less command is what its opcode builds from any fields, so every other word of the opcode is illegal. -/
theorem legal_eq_false_of_ne_encode {i : Instr} (hi : ∀ c, i.opcode.build c = i) {w : Word}
    (hop : w.extractLsb' 26 6 = i.opcode.code) (hne : w ≠ encode i) : legal w = false := by
  refine Bool.eq_false_iff.2 fun hlegal => hne ?_
  obtain ⟨i', hi'⟩ := legal_iff_decode.1 hlegal
  obtain ⟨o, ho, rfl⟩ := CW.decode_eq_ok_iff.1 hi'
  have hopcode : o = i.opcode := Opcode.code_injective (ho.op.trans hop)
  rw [← encode_of_decode hi', hopcode, hi]

theorem exec_nop (s : State) : exec .nop s = .next s.completed := succeed_eq s

theorem exec_clrerr (s : State) : exec .clrerr s = .next { s.completed with errSeen := false } :=
  succeed_eq s.clearErrSeen

/-- Settles O36: NOP is a success that wrote nothing, and 0 is the only legal word of its opcode. -/
theorem nopWritesOnlyTheStatus : Obligations.NopWritesOnlyTheStatus :=
  ⟨exec_nop, encodedAs_fields .nop, fun _ => legal_eq_false_of_ne_encode (i := .nop) fun _ => rfl,
    illegalOtherwise 0x00⟩

/-- Settles O37: CLRERR is a success that wrote ERRSEEN, and 0x34000000 is the only legal word of its opcode. -/
theorem clrerrClearsErrSeen : Obligations.ClrerrClearsErrSeen :=
  ⟨exec_clrerr, encodedAs_fields .clrerr, fun _ => legal_eq_false_of_ne_encode (i := .clrerr) fun _ => rfl,
    illegalOtherwise 0x0D⟩

end Sys2Proof.Machine

/-! ## Failures

When a command fails, with which code, and what it leaves (60_exceptions.md R201 to R213). An illegal word completes as
`illegalOtherwise` says, a legal command by one of the cases of `Completes`. -/

namespace Sys2Proof.Machine

/-! ### Illegal words -/

/-- The opcodes above CLRERR's are reserved (30_encoding.md R87). -/
theorem opcode_code_le (o : Opcode) : o.code ≤ 0x0D#6 := by
  cases o <;> decide

theorem legal_eq_false_of_reserved {w : Word} (h : 0x0D#6 < w.extractLsb' 26 6) : legal w = false := by
  refine Bool.eq_false_iff.2 fun hlegal => ?_
  obtain ⟨o, ho⟩ := legal_iff_legalAs.1 hlegal
  have hop : o.code = w.extractLsb' 26 6 := ho.op
  rw [← hop] at h
  exact BitVec.not_lt.2 (opcode_code_le o) h

/-- Settles O9: acceptance does not look at legality, CORE's turn is `illegalOtherwise`, and no opcode has a reserved
code. -/
theorem illegalWordsCompleteAsIllegalCommand : Obligations.IllegalWordsCompleteAsIllegalCommand :=
  ⟨fun _ _ _ _ hb hr h => step_cmdWrite_accepted hr hb h, fun w s t => illegalOtherwise _ w s t rfl,
    fun _ => legal_eq_false_of_reserved⟩

/-! ### Which command fails with which code -/

/-- A command leaves ERR = 0, or the code of a kind it raises. -/
theorem Completes.err_cases {s t : State} {i : Instr} (h : Completes s i t) :
    t.err = 0 ∨ ∃ e, Raises s i e ∧ t.err = e.code := by
  cases h with
  | failed i e he => exact .inr ⟨e, he, rfl⟩
  | _ => exact .inl rfl

/-- Settles O48: every command completes (`exec_completes`), and `Raises` lists the kinds of R203. -/
theorem commandsFailOnlyAsListed : Obligations.CommandsFailOnlyAsListed := by
  intro i s
  obtain ⟨t, ht, hc⟩ := exec_completes i s
  refine ⟨t, ht, ?_⟩
  obtain hok | ⟨e, he, hcode⟩ := hc.err_cases
  · cases i with
    | inv | div | interp => exact .inl hok
    | _ => exact hok
  · cases he with
    | inv | div => exact .inr hcode
    | interpEmpty => exact .inr (.inr hcode)
    | interpDuplicate => exact .inr (.inl hcode)

/-! ### The order of the errors -/

/-- ERRI and ERRJ hold the indices of a first duplicate pair whole (42_interpolation.md R153). -/
theorem FirstDuplicate.toNat_ofNat {px : Nat → Byte} {n : Byte} {i j : Nat} (h : FirstDuplicate px n.toNat i j) :
    (BitVec.ofNat 8 i).toNat = i ∧ (BitVec.ofNat 8 j).toNat = j := by
  obtain ⟨hij, hj⟩ := h.lt_255
  exact ⟨Nat.mod_eq_of_lt (by omega), Nat.mod_eq_of_lt (by omega)⟩

theorem exec_interp_err_ne_two {n : Src} {s t : State} (h : exec (.interp n) s = .next t) : t.err ≠ 0x2 := by
  obtain ⟨u, hu, herr⟩ := commandsFailOnlyAsListed (.interp n) s
  cases h.symm.trans hu
  obtain herr | herr | herr := herr <;> rw [herr] <;> decide

/-- Settles O49: the failures of illegal words, INV, DIV and INTERP (O2, O24, O25, O28), and INTERP's codes by O48. -/
theorem oneErrorInTheOrderOfPriority : Obligations.OneErrorInTheOrderOfPriority := by
  obtain ⟨-, -, illegal⟩ := legalityFollowsTheClauses
  obtain ⟨-, invOfZero, -⟩ := invWritesTheInverse
  obtain ⟨-, divByZero, -⟩ := divWritesTheQuotient
  obtain ⟨interpOfNone, -⟩ := interpWritesTheLagrangeValue
  refine ⟨illegal, fun a s ha => ⟨_, invOfZero a s ha, rfl⟩, fun a b s hb => ⟨_, divByZero a b s hb, rfl⟩,
    fun n s hn => ⟨_, interpOfNone n s (congrArg BitVec.toNat hn), rfl⟩, fun n s i j _ h => ?_,
    fun n s t => exec_interp_err_ne_two⟩
  obtain ⟨hi, hj⟩ := h.toNat_ofNat
  exact ⟨_, exec_interp_of_firstDuplicate h, rfl, hi, hj⟩

/-! ### What a failure writes -/

/-- A completion that leaves ERR ≠ 0 has written the status fields and nothing else (60_exceptions.md R210). -/
theorem Effect.eq_failedWith {s t : State} (h : Effect s t) (he : t.err ≠ 0) :
    t = s.failedWith t.err t.errX t.errI t.errJ := by
  cases h with
  | failed => rfl
  | _ => exact absurd rfl he

/-- Settles O50: of all effects only a failure leaves ERR ≠ 0, and ERRINFO is as in O17. -/
theorem failuresWriteOnlyTheStatus : Obligations.FailuresWriteOnlyTheStatus := by
  intro w s t h he
  obtain ⟨hinfo, -⟩ := complete_errInfo h
  exact ⟨(complete_effect h).eq_failedWith he, hinfo⟩

end Sys2Proof.Machine

/-! ## Reset, initialisation and the first commands

What reset leaves (70_reset_and_hazards.md R240), what the host sees until initialisation ends (R241), and what commands
give on memories that nothing was loaded into (R242). -/

namespace Sys2Proof.Machine

/-! ### Reset -/

/-- Settles O47: State.reset is what asserting and then releasing reset leaves. -/
theorem resetMeetsTheInvariant : Obligations.ResetMeetsTheInvariant :=
  (State.Inv.enterReset State.reset).leaveReset

theorem coreMove_underReset {s : State} (hr : s.resetAsserted = true) : coreMove s = .next s := if_pos hr

/-- Settles O11: by the invariant, BUSY = 1 with nothing pending means the reset values (`State.Inv.initialising`); and
CORE does not move while reset is asserted. -/
theorem resetTakesTheResetValues : Obligations.ResetTakesTheResetValues := by
  refine ⟨⟨resetMeetsTheInvariant.initialising rfl rfl, rfl⟩, fun s rest h => ?_,
    fun s hr => ⟨fun h => ?_, fun rest h => ?_, fun rest h => step_event h⟩⟩
  · have hinv : (s.enterReset.advance rest).Inv := (State.Inv.enterReset s).advance rest
    exact ⟨s.enterReset.advance rest, step_event h, hinv.initialising rfl rfl, rfl, rfl, rfl, rfl⟩
  · rw [step, h]
    exact coreMove_underReset hr
  · rw [step_event h]
    exact coreMove_underReset (s := s.advance rest) hr

/-! ### Initialisation -/

theorem State.AtResetValues.status {s : State} (h : s.AtResetValues) :
    s.status = if s.busy then 0x80000000 else 0 := by
  obtain ⟨hr, herr, hseen, -⟩ := h
  rw [State.status, hr, herr, hseen]
  cases s.busy <;> rfl

theorem State.AtResetValues.errInfo {s : State} (h : s.AtResetValues) : s.errInfo = 0 := by
  obtain ⟨-, -, -, hx, hi, hj, -⟩ := h
  rw [State.errInfo, hx, hi, hj]
  rfl

/-- CORE's turn takes a wait off the agenda, and no register or memory entry is there. -/
theorem State.AtResetValues.of_coreTurn {s t : State} (h : s.AtResetValues) (ht : CoreTurn s t) : t.AtResetValues := by
  cases ht <;> exact h

theorem step_coreTurn_idle {s t : State} (h : CoreTurn s t) (hr : s.resetAsserted = false) (hp : s.pending = none) :
    step s = .next t.becomeReady := by
  obtain ⟨hp', hr'⟩ := coreTurn_frame h
  rw [step_coreTurn h hr, coreMove_idle (hr'.trans hr) (hp'.trans hp)]

/-- Settles O12: the reads answer the registers at their reset values, and a held CMD write is one of the turns of CORE
that end initialisation. -/
theorem initialisationReadsAndEnds : Obligations.InitialisationReadsAndEnds := by
  intro s hs hb hp hr
  have hstatus : s.status = 0x80000000 := hs.status.trans (if_pos hb)
  refine ⟨fun rest h => ?_, fun rest h => ?_, fun rest h => step_read hr h,
    fun w rest h => step_coreTurn_idle (.held s rest w h hb) hr hp,
    fun t ht => ⟨step_coreTurn_idle ht hr hp, ?_⟩⟩
  · rw [step_read hr h, State.readReg, hstatus]
    rfl
  · rw [step_read hr h, State.readReg, hs.errInfo]
    rfl
  · have ht' : t.AtResetValues := hs.of_coreTurn ht
    exact State.AtResetValues.status (s := t.becomeReady) ht'

/-! ### Commands before any load -/

/-- With every coefficient 0 the fold stays at 0. -/
theorem hornerLoop_of_coef_zero {coef : Nat → Byte} (h : ∀ k, coef k = 0) (x : Byte) (d : Nat) :
    hornerLoop coef x d 0 = 0 := by
  have hstep (k : Nat) : gfAdd (gfMul 0 x) (coef k) = 0 := by rw [zero_gfMul, h]; rfl
  induction d with
  | zero => exact hstep 0
  | succ d ih => rw [hornerLoop, hstep, ih]

/-- With every x equal, points 0 and 1 are the first pair with a shared x. -/
theorem firstDuplicate_of_px_const {px : Nat → Byte} {v : Byte} (h : ∀ k, px k = v) {n : Nat} (hn : 2 ≤ n) :
    FirstDuplicate px n 0 1 :=
  ⟨Nat.one_pos, hn, (h 0).trans (h 1).symm, fun _ _ hi => absurd hi (Nat.not_lt_zero _),
    fun _ hj hne => absurd (Nat.lt_one_iff.1 hj) hne⟩

/-- Settles O13: every entry of an empty memory reads 0, so the fold stays at 0, the one point has y = 0, and points 0
and 1 share x = 0. -/
theorem firstCommandsAfterReset : Obligations.FirstCommandsAfterReset := by
  intro s hcoef hpx hpy
  have hcoefAt (k : Nat) : s.coefAt k = 0 := by rw [State.coefAt, hcoef, Memory.read_nil]
  have hpxAt (k : Nat) : s.pxAt k = 0 := by rw [State.pxAt, hpx, Memory.read_nil]
  refine ⟨fun i => ?_, fun i => ?_, fun i => ?_, fun d x => ?_, fun n hn => ?_, fun n hn => ?_⟩
  · rw [exec_rdc, hcoef, Memory.read_nil]
  · rw [exec_rdpx, hpx, Memory.read_nil]
  · rw [exec_rdpy, hpy, Memory.read_nil]
  · rw [exec_eval, evalPoly_eq_hornerLoop, hornerLoop_of_coef_zero hcoefAt]
  · rw [interpOnePointWritesItsY n s hn, hpy, Memory.read_nil]
  · rw [exec_interp_of_firstDuplicate (firstDuplicate_of_px_const hpxAt hn), hpxAt]
    rfl

end Sys2Proof.Machine

/-! ## The canonical form of the memories

Each content of a memory is one list (70_reset_and_hazards.md R242, notes/assumptions/17.md): the first cell is at the
lowest index that does not read 0, its value is what is read there, and `read_tail` says how the other cells read. -/

namespace Sys2Proof.Machine.Memory

theorem read_cons_self {k : Nat} (hk : k < 256) (b : Byte) (m : Memory) : read ((k, b) :: m) (BitVec.ofNat 8 k) = b :=
  if_pos (Nat.mod_eq_of_lt hk).symm

/-- Without its first cell a canonical memory reads the same, but for the cell's index, which becomes unwritten. -/
theorem read_tail {lo k : Nat} {b : Byte} {m : Memory} (h : wfFrom lo ((k, b) :: m) = true) (i : Byte) :
    read m i = if k = i.toNat then 0 else read ((k, b) :: m) i := by
  obtain ⟨-, -, -, hm⟩ := wfFrom_cons.1 h
  split
  · next hk => exact read_of_lt hm (by omega)
  · next hk => rw [read, if_neg hk]

/-- A bound from below on the indices of m' holds of the first index of every memory that reads as m' does: the entry
there is not 0. -/
theorem le_of_read_eq_cons {lo lo' k : Nat} {b : Byte} {m m' : Memory} (h : wfFrom lo ((k, b) :: m) = true)
    (h' : wfFrom lo' m' = true) (hread : ∀ i, read ((k, b) :: m) i = read m' i) : lo' ≤ k := by
  obtain ⟨-, hk, hb, -⟩ := wfFrom_cons.1 h
  by_contra hlt
  have hzero : read m' (BitVec.ofNat 8 k) = 0 := read_of_lt h' (by rw [BitVec.toNat_ofNat]; omega)
  rw [← hread, read_cons_self hk] at hzero
  exact hb hzero

theorem wfFrom_head {lo k : Nat} {b : Byte} {m : Memory} (h : wfFrom lo ((k, b) :: m) = true) :
    wfFrom k ((k, b) :: m) = true := by
  obtain ⟨-, hrest⟩ := wfFrom_cons.1 h
  exact wfFrom_cons.2 ⟨le_rfl, hrest⟩

/-- An empty memory has all its cells, none, at 256 or above, so it reads as no other one. -/
theorem read_cons_ne_nil {lo k : Nat} {b : Byte} {m : Memory} (h : wfFrom lo ((k, b) :: m) = true) :
    ¬ ∀ i, read ((k, b) :: m) i = read [] i := fun hread => by
  obtain ⟨-, hk, -⟩ := wfFrom_cons.1 h
  exact absurd (le_of_read_eq_cons (lo' := 256) h rfl hread) (by omega)

theorem eq_of_read_eq : ∀ {m m' : Memory} {lo lo' : Nat}, wfFrom lo m = true → wfFrom lo' m' = true →
    (∀ i, read m i = read m' i) → m = m'
  | [], [], _, _, _, _, _ => rfl
  | [], _ :: _, _, _, _, h', hread => absurd (fun i => (hread i).symm) (read_cons_ne_nil h')
  | _ :: _, [], _, _, h, _, hread => absurd hread (read_cons_ne_nil h)
  | (k, b) :: m, (k', b') :: m', _, _, h, h', hread => by
    have hk : k = k' := Nat.le_antisymm (le_of_read_eq_cons h' (wfFrom_head h) fun i => (hread i).symm)
      (le_of_read_eq_cons h (wfFrom_head h') hread)
    subst hk
    obtain ⟨-, hk, -, hm⟩ := wfFrom_cons.1 h
    obtain ⟨-, -, -, hm'⟩ := wfFrom_cons.1 h'
    have hb : b = b' := by rw [← read_cons_self hk b m, hread, read_cons_self hk]
    rw [hb, eq_of_read_eq hm hm' fun i => by rw [read_tail h, read_tail h', hread]]

end Sys2Proof.Machine.Memory

namespace Sys2Proof.Machine

/-- Settles O55: cell by cell (`Memory.eq_of_read_eq`). -/
theorem canonicalMemoriesAreEqual : Obligations.CanonicalMemoriesAreEqual := fun _ _ => Memory.eq_of_read_eq

end Sys2Proof.Machine
